-- ==== Sys2Proof/Word.lean ====
section
/-! DEFINITION. The two word types of the machine (00_scope.md R4, R6): every register value is an unsigned
integer of its stated width, so bit vectors with their wrapping arithmetic are the words. -/

namespace Sys2Proof

/-- An 8-bit value: a memory byte, a general register, a timer (10_state.md R11, R17 to R19). -/
abbrev Byte := BitVec 8

/-- A 16-bit value: `I`, `pc`, a stack entry, an opcode (10_state.md R13 to R15; 30_encoding.md R60). -/
abbrev Word := BitVec 16

end Sys2Proof
end

