-- ==== Sys2Proof/Syntax.lean ====
section
/-! DEFINITION. The instructions (30_encoding.md R64): one constructor for each of the 34 rows of the opcode map,
in the map's order. The fields have the widths of R61, so every operand of a term is one the encoding can
hold; immediates are unsigned and unscaled (R67). -/

namespace Sys2Proof

/-- A register index, the value of an X or Y field (30_encoding.md R61): V0 to VF. -/
abbrev RegIdx := Fin 16

/-- The 34 instructions. `x` and `y` are the X and Y fields, `n`, `nn` and `nnn` the immediates. -/
inductive Instr where
  /-- 00E0: clear the framebuffer -/
  | cls
  /-- 00EE: return from subroutine -/
  | ret
  /-- 1NNN: jump -/
  | jp (nnn : BitVec 12)
  /-- 2NNN: call -/
  | call (nnn : BitVec 12)
  /-- 3XNN: skip if VX = NN -/
  | seImm (x : RegIdx) (nn : Byte)
  /-- 4XNN: skip if VX differs from NN -/
  | sneImm (x : RegIdx) (nn : Byte)
  /-- 5XY0: skip if VX = VY -/
  | seReg (x y : RegIdx)
  /-- 9XY0: skip if VX differs from VY -/
  | sneReg (x y : RegIdx)
  /-- 6XNN: load immediate -/
  | ldImm (x : RegIdx) (nn : Byte)
  /-- 7XNN: add immediate, no flag -/
  | addImm (x : RegIdx) (nn : Byte)
  /-- 8XY0: copy register -/
  | ldReg (x y : RegIdx)
  /-- 8XY1: bitwise OR -/
  | or (x y : RegIdx)
  /-- 8XY2: bitwise AND -/
  | and (x y : RegIdx)
  /-- 8XY3: bitwise exclusive OR -/
  | xor (x y : RegIdx)
  /-- 8XY4: add with carry flag -/
  | addReg (x y : RegIdx)
  /-- 8XY5: VX minus VY with inverted borrow -/
  | sub (x y : RegIdx)
  /-- 8XY6: shift VX right; the Y digit is encoded and ignored -/
  | shr (x y : RegIdx)
  /-- 8XY7: VY minus VX with inverted borrow -/
  | subn (x y : RegIdx)
  /-- 8XYE: shift VX left; the Y digit is encoded and ignored -/
  | shl (x y : RegIdx)
  /-- ANNN: load the index register -/
  | ldI (nnn : BitVec 12)
  /-- BNNN: jump to NNN plus V0 -/
  | jpV0 (nnn : BitVec 12)
  /-- CXNN: random byte AND NN -/
  | rnd (x : RegIdx) (nn : Byte)
  /-- DXYN: draw an N-row sprite -/
  | drw (x y : RegIdx) (n : BitVec 4)
  /-- EX9E: skip if the key is pressed -/
  | skp (x : RegIdx)
  /-- EXA1: skip if the key is not pressed -/
  | sknp (x : RegIdx)
  /-- FX07: read the delay timer -/
  | ldVxDt (x : RegIdx)
  /-- FX0A: wait for a key -/
  | ldVxK (x : RegIdx)
  /-- FX15: set the delay timer -/
  | ldDtVx (x : RegIdx)
  /-- FX18: set the sound timer -/
  | ldStVx (x : RegIdx)
  /-- FX1E: add VX to the index register -/
  | addIVx (x : RegIdx)
  /-- FX29: point the index register at a glyph -/
  | ldFVx (x : RegIdx)
  /-- FX33: store the decimal digits of VX -/
  | ldBVx (x : RegIdx)
  /-- FX55: store V0 to VX -/
  | stRegs (x : RegIdx)
  /-- FX65: load V0 to VX -/
  | ldRegs (x : RegIdx)
deriving DecidableEq, Repr

end Sys2Proof
end

