-- ==== Sys2Proof/Config.lean ====
section
/-! DEFINITION. What the design fixes or leaves open (00_scope.md R4): the open parameters with their defaults,
the size limits, and the free value of the random source. -/

namespace Sys2Proof

/-- What DXYN does with a set sprite bit whose target is off the display (45_display.md R173, D4). -/
inductive DrawEdgePolicy where
  /-- the bit is ignored (the default) -/
  | clip
  /-- the instruction raises DisplayOutOfBounds (60_exceptions.md R233) -/
  | fault
deriving DecidableEq, Repr

/-- Which pressed key FX0A takes when several are down (46_keypad_timers.md R192, D8). -/
inductive KeyPick where
  /-- the smallest pressed index (the default) -/
  | lowest
  /-- the largest pressed index -/
  | highest
deriving DecidableEq, Repr

/-- The 80 bytes LOAD installs at address 0 (20_memory.md R42): an open parameter. -/
abbrev Font := Vector Byte 80

/-- The open parameters of the design (00_scope.md R4). They are fixed for one machine: `State` carries them so
that every statement holds for every choice, and no operation writes them. The fourth, `RNG`, is the
constructor of `RngState`. -/
structure Params where
  /-- `FONT` -/
  font : Font
  /-- `DRAW_EDGE_POLICY` -/
  drawEdge : DrawEdgePolicy
  /-- `KEY_PICK` -/
  keyPick : KeyPick
deriving DecidableEq, Repr

namespace Config

/-- The conventional CHIP-8 font, the default of `FONT` (20_memory.md R42, one glyph a line).
PRESUMED: the spec marks the bytes as general knowledge (log 5). Unsafe for a claim about these bytes. -/
def defaultFont : Font := #v[
  0xF0, 0x90, 0x90, 0x90, 0xF0,
  0x20, 0x60, 0x20, 0x20, 0x70,
  0xF0, 0x10, 0xF0, 0x80, 0xF0,
  0xF0, 0x10, 0xF0, 0x10, 0xF0,
  0x90, 0x90, 0xF0, 0x10, 0x10,
  0xF0, 0x80, 0xF0, 0x10, 0xF0,
  0xF0, 0x80, 0xF0, 0x90, 0xF0,
  0xF0, 0x10, 0x20, 0x40, 0x40,
  0xF0, 0x90, 0xF0, 0x90, 0xF0,
  0xF0, 0x90, 0xF0, 0x10, 0xF0,
  0xF0, 0x90, 0xF0, 0x90, 0x90,
  0xE0, 0x90, 0xE0, 0x90, 0xE0,
  0xF0, 0x80, 0x80, 0x80, 0xF0,
  0xE0, 0x90, 0x90, 0x90, 0xE0,
  0xF0, 0x80, 0xF0, 0x80, 0xF0,
  0xF0, 0x80, 0xF0, 0x80, 0x80]

/-- The defaults of the open parameters (end of 92_eei_decisions.md). DESIGN CHOICE, log 5, 6 and 7. -/
def defaultParams : Params := ⟨defaultFont, .clip, .lowest⟩

/-- `MAX_ROM`, the longest program LOAD accepts: 4096 - 512 bytes (R4, 70_reset_and_hazards.md R242). -/
abbrev maxRom : Nat := 3584

/-- `PROGRAM_BASE`, where LOAD copies the program and sets `pc` (R4, R241). -/
abbrev programBase : Nat := 0x200

/-- FREE VALUE: the byte that the n-th draw of the random source gives (44_random.md R161: "treat each draw `r`
as an unconstrained value"). It has no body, so no proof can depend on a value of it (log 4). Safe. -/
opaque freeRandomByte : Nat → Byte

end Config

end Sys2Proof
end

