-- ==== Sys2Proof/Machine/State.lean ====
section
/-! DEFINITION. The state of the core (10_state.md R10 to R25), the reasons a CYCLE can fail, and the state after
reset (R28). Plain data throughout. -/

namespace Sys2Proof.Machine

/-- The fatal faults a CYCLE can raise, with what each reports (60_exceptions.md R210, R214, R217). They are taken
as a next state with the halt latched (`State.takeFault`), so no step answers with the outcome `fault`: the
spec gives the effect of each (R86, R218). Safe: a halted core executes nothing (log 1). -/
inductive Fault where
  /-- 2NNN with a full stack; reports the address of the CALL (R212). Safe. -/
  | stackOverflow (pc : Word)
  /-- 00EE with an empty stack; reports the address of the RET (R213). Safe. -/
  | stackUnderflow (pc : Word)
  /-- the fetch, DXYN, FX33, FX55 or FX65 would touch an address above 0xFFF; reports the lowest one (R214).
  Safe. -/
  | memoryOutOfBounds (addr : Nat)
  /-- DXYN under `DRAW_EDGE_POLICY = fault` with a set bit off the display; reports the first such cell in
  row-then-column order (R233). Safe. -/
  | displayOutOfBounds (x y : Nat)
deriving DecidableEq, Repr

/-- The codes `fault_cause` can hold (60_exceptions.md R216): UnknownOpcode (code 1) is never stored. -/
inductive FaultCause where
  | none
  | stackOverflow
  | stackUnderflow
  | memoryOutOfBounds
  | displayOutOfBounds
deriving DecidableEq, Repr

/-- The CycleResult a CYCLE returns (40_cycle.md R88, 60_exceptions.md R217). -/
inductive CycleResult where
  /-- `Ok` -/
  | ok
  /-- `UnknownOpcode(pc, opcode)` -/
  | unknownOpcode (pc opcode : Word)
  /-- `Fault(code, info)`: the CYCLE that raised it -/
  | fault (f : Fault)
  /-- `Fault(fault_cause)` with no info: a CYCLE that began halted -/
  | stillHalted (cause : FaultCause)
deriving DecidableEq, Repr

/-- Why the machine has no move. -/
inductive Refusal where
  /-- an instruction without a meaning yet, by its mnemonic; no arm raises it now. Safe. -/
  | notModelled (mnemonic : String)
  /-- a CYCLE or a host access before the first successful LOAD: "a model must refuse it"
  (70_reset_and_hazards.md R240 (c)). Raised by the step and by `State.access`. Safe. -/
  | notLoaded
deriving DecidableEq, Repr

/-- The state of the random source (10_state.md R24, 44_random.md R161, R162). The constructor is the open
parameter `RNG`; what it carries is `rng_state`. -/
inductive RngState where
  /-- an unconstrained stream of bytes: how many have been drawn since the seed (log 4) -/
  | free (draws : Nat)
  /-- the reference 16-bit Galois generator of R162 -/
  | reference (lfsr : Word)
deriving DecidableEq, Repr

/-- The bytes of `mem` that differ from what LOAD leaves there without a program: address and byte pairs, addresses
strictly rising (`Memory.wf` in Ops.lean). -/
abbrev Memory := List Host.Cell

/-- The register file V0 to VF (10_state.md R11, R12). -/
abbrev Regs := Vector Byte 16

/-- The framebuffer (10_state.md R20): 32 rows of 64 one-bit cells; bit x of row y is cell (x, y), 1 is lit. The
64-bit rows one after the other are the spec's linear array with index x + 64*y. -/
abbrev Framebuffer := Vector (BitVec 64) 32

/-- All the state the spec gives the core (10_state.md R10), its last CycleResult (00_scope.md R8), and the
model's own `loaded` (R240) and `params` (00_scope.md R4). -/
structure State where
  /-- `mem`, 4096 bytes (R19) -/
  mem : Memory
  /-- `V[0..15]` (R11, R12) -/
  v : Regs
  /-- `I` (R13) -/
  i : Word
  /-- `pc` (R14) -/
  pc : Word
  /-- `stack[0..15]` (R15) -/
  stack : Vector Word 16
  /-- `sp`, 0 to 16 (R16) -/
  sp : Fin 17
  /-- `DT` (R17) -/
  dt : Byte
  /-- `ST` (R18) -/
  st : Byte
  /-- `fb` (R20) -/
  fb : Framebuffer
  /-- `redraw` (R21) -/
  redraw : Bool
  /-- `key[0..15]` (R22), true is pressed -/
  key : Vector Bool 16
  /-- `beep` (R23) -/
  beep : Bool
  /-- `rng_state` (R24) -/
  rng : RngState
  /-- `halted` (R25) -/
  halted : Bool
  /-- `fault_cause` (R25) -/
  faultCause : FaultCause
  /-- the CycleResult of the last CYCLE since LOAD, none before the first (00_scope.md R8; log 2) -/
  lastResult : Option CycleResult
  /-- the model's own: a LOAD has succeeded since power-on (R240; log 3) -/
  loaded : Bool
  /-- the model's own: the open parameters, never written (00_scope.md R4; log 5, 6, 7) -/
  params : Params
deriving DecidableEq, Repr

/-- What a successful LOAD leaves everywhere but in the program area (10_state.md R28, 70_reset_and_hazards.md
R241): it keeps `rng_state` and the parameters, and zeroes the rest but `pc` and the font. -/
def State.cleared (params : Params) (rng : RngState) : State where
  mem := []
  v := Vector.replicate 16 0
  i := 0
  pc := 0x200
  stack := Vector.replicate 16 0
  sp := 0
  dt := 0
  st := 0
  fb := Vector.replicate 32 0
  redraw := false
  key := Vector.replicate 16 false
  beep := false
  rng := rng
  halted := false
  faultCause := .none
  lastResult := none
  loaded := true
  params := params

/-- The machine right after reset (10_state.md R28): LOAD of the empty sequence on a core just powered on, with the
default parameters and the free random source at its first draw (DESIGN CHOICE, log 3 and 4). -/
def State.reset : State := State.cleared Config.defaultParams (.free 0)

end Sys2Proof.Machine
end

