-- ==== Sys2Proof/Machine/Ops.lean ====
section
/-! DEFINITION. The shared operations: memory and its range check (20_memory.md R43, R54), fetch (40_cycle.md R82),
the call stack (10_state.md R15, R16), taking a fatal fault (40_cycle.md R86), the timer post-step
(60_exceptions.md R228) and the reports of a CYCLE (40_cycle.md R88). -/

namespace Sys2Proof.Machine

/-! ### Memory -/

/-- What an address that is not listed reads as: what LOAD leaves there without a program, the font at 0x000 to
0x04F and 0 elsewhere (10_state.md R28, 20_memory.md R41). -/
def Memory.background (font : Font) (a : Nat) : Byte :=
  if h : a < 80 then font[a] else 0

/-- The byte listed for an address, if one is. -/
def Memory.lookup (a : Nat) : Memory → Option Byte
  | [] => none
  | (k, b) :: rest => if k = a then some b else Memory.lookup a rest

/-- The byte at an address (20_memory.md R47, R50). -/
def Memory.read (font : Font) (m : Memory) (a : Nat) : Byte :=
  (Memory.lookup a m).getD (Memory.background font a)

/-- Put a byte at the head of a list whose addresses are all higher: not listed where it is what an unlisted
address reads as. -/
def Memory.cons (font : Font) (a : Nat) (b : Byte) (m : Memory) : Memory :=
  if b = Memory.background font a then m else (a, b) :: m

/-- Write one byte (20_memory.md R43, R47): the list keeps its canonical form. -/
def Memory.write (font : Font) (a : Nat) (b : Byte) : Memory → Memory
  | [] => Memory.cons font a b []
  | (k, c) :: rest =>
    if a < k then Memory.cons font a b ((k, c) :: rest)
    else if a = k then Memory.cons font a b rest
    else (k, c) :: Memory.write font a b rest

/-- The canonical form: addresses strictly rising and below 4096, no entry equal to what an unlisted address reads
as. -/
abbrev Memory.wf (font : Font) (m : Memory) : Prop :=
  m.Pairwise (fun p q => p.1 < q.1) ∧ ∀ c ∈ m, c.1 < 4096 ∧ c.2 ≠ Memory.background font c.1

/-- The model's read of one byte. -/
def State.peek (s : State) (a : Nat) : Byte := Memory.read s.params.font s.mem a

/-- The model's write of one byte; `writeBlock` and LOAD check the range. -/
def State.poke (s : State) (a : Nat) (b : Byte) : State :=
  { s with mem := Memory.write s.params.font a b s.mem }

/-- The `n` bytes from `a` on, in ascending order. -/
def State.peekBlock (s : State) (a n : Nat) : List Byte := (List.range n).map fun k => s.peek (a + k)

/-- Store bytes from `a` on, in ascending order (20_memory.md R54). -/
def State.pokeBlock (s : State) (a : Nat) : List Byte → State
  | [] => s
  | b :: bs => State.pokeBlock (s.poke a b) (a + 1) bs

/-- The range check of an access to the `n` bytes from `a` on: it faults iff there is a byte to touch and the last
one lies above 0xFFF, and reports the lowest out-of-range address (20_memory.md R43 for one byte, R54 for
several). Addresses are exact integers, never wrapped (43_index_memory.md R146). -/
def rangeFault (a n : Nat) : Option Fault :=
  if 0 < n ∧ 0xFFF < a + n - 1 then some (.memoryOutOfBounds (max a 0x1000)) else none

/-- Read `n` bytes from `a` on, after the range check (20_memory.md R43, R54). -/
def State.readBlock (s : State) (a n : Nat) : Except Fault (List Byte) :=
  match rangeFault a n with
  | some f => .error f
  | none => .ok (s.peekBlock a n)

/-- Write bytes from `a` on, after the range check (20_memory.md R43, R54). -/
def State.writeBlock (s : State) (a : Nat) (bytes : List Byte) : Except Fault State :=
  match rangeFault a bytes.length with
  | some f => .error f
  | none => .ok (s.pokeBlock a bytes)

/-- Fetch the opcode at `pc`, big-endian, both bytes in range (40_cycle.md R82, 20_memory.md R44, R45). -/
def State.fetch (s : State) : Except Fault Word :=
  match rangeFault s.pc.toNat 2 with
  | some f => .error f
  | none => .ok (wordOfBytes (s.peek s.pc.toNat) (s.peek (s.pc.toNat + 1)))

/-! ### Program counter and call stack -/

/-- `pc <- target` (00_scope.md, pseudocode primitives). -/
def State.setPc (s : State) (target : Word) : State := { s with pc := target }

/-- `next`, the address of the following instruction: `(pc + 2) mod 65536`. -/
def State.nextPc (s : State) : Word := s.pc + 2

/-- `pc <- next` (40_cycle.md R85, class "+2"). -/
def State.advance (s : State) : State := s.setPc s.nextPc

/-- A conditional skip: +4 if the condition holds, else +2 (41_control_flow.md R108). -/
def State.skipIf (s : State) (c : Bool) : State := s.setPc (if c then s.pc + 4 else s.pc + 2)

/-- Push a return address; a full stack faults before anything changes (41_control_flow.md R102). -/
def State.push (s : State) (ret : Word) : Except Fault State :=
  if h : s.sp.val < 16 then
    .ok { s with stack := s.stack.set s.sp.val ret h, sp := ⟨s.sp.val + 1, by omega⟩ }
  else .error (.stackOverflow s.pc)

/-- Pop a return address; an empty stack faults before anything changes, and the entry keeps its value
(41_control_flow.md R100, 10_state.md R15). -/
def State.pop (s : State) : Except Fault (Word × State) :=
  if h : 0 < s.sp.val then
    .ok (s.stack[s.sp.val - 1]'(by omega), { s with sp := ⟨s.sp.val - 1, by omega⟩ })
  else .error (.stackUnderflow s.pc)

/-! ### Faults, the post-step and the reports of a CYCLE -/

/-- The code a fault stores in `fault_cause` (60_exceptions.md R216). -/
def Fault.cause : Fault → FaultCause
  | .stackOverflow _ => .stackOverflow
  | .stackUnderflow _ => .stackUnderflow
  | .memoryOutOfBounds _ => .memoryOutOfBounds
  | .displayOutOfBounds _ _ => .displayOutOfBounds

/-- The 3-bit code of `fault_cause` (60_exceptions.md R216). -/
def FaultCause.code : FaultCause → BitVec 3
  | .none => 0
  | .stackOverflow => 2
  | .stackUnderflow => 3
  | .memoryOutOfBounds => 4
  | .displayOutOfBounds => 5

/-- TAKING A FATAL FAULT, for every instruction and the fetch (40_cycle.md R86; 60_exceptions.md R217, R218):
`halted` and `fault_cause` are set, the fault is reported, and nothing else changes. There is no return from
it but LOAD (60_exceptions.md R223; `State.load` in HostOps.lean). -/
def State.takeFault (s : State) (f : Fault) : State :=
  { s with halted := true, faultCause := f.cause, lastResult := some (.fault f) }

/-- Finish an instruction that may fault: take the fault, or go on with the value (40_cycle.md R80, FATAL). -/
def State.orFault {α : Type} (s : State) (r : Except Fault α) (k : α → State) :
    Host.Outcome State Fault Refusal :=
  match r with
  | .error f => .next (s.takeFault f)
  | .ok a => .next (k a)

/-- One count of a timer: down by 1, and stop at 0 (60_exceptions.md R226, R227). -/
def countDown (t : Byte) : Byte := if t = 0 then 0 else t - 1

/-- The timer post-step (60_exceptions.md R228): the beep fires when ST goes from 1 to 0. -/
def State.postStep (s : State) : State :=
  { s with dt := countDown s.dt, st := countDown s.st, beep := s.beep || s.st == 1 }

/-- Record what this CYCLE returns (40_cycle.md R88; log 2). -/
def State.report (s : State) (r : CycleResult) : State := { s with lastResult := some r }

/-- The end of a CYCLE that executed an instruction: after a fatal fault nothing more, else the post-step and `Ok`
(40_cycle.md R80, R86, R87). -/
def State.finishCycle (t : State) : State := if t.halted then t else t.postStep.report .ok

/-- A CYCLE that met an unknown opcode (40_cycle.md R84): reported, `pc` unchanged, the post-step runs. -/
def State.unknownCycle (s : State) (w : Word) : State := s.postStep.report (.unknownOpcode s.pc w)

/-- A CYCLE that began halted (40_cycle.md R81): nothing changes, the cause is reported again. -/
def State.haltedCycle (s : State) : State := s.report (.stillHalted s.faultCause)

end Sys2Proof.Machine
end

