-- ==== Sys2Proof/Machine/Operands.lean ====
section
/-! DEFINITION. The operand forms (30_encoding.md R67): registers, zero-extended immediates, the byte block at `I`,
the key a register selects, and the values FX29 and FX33 make of a register. -/

namespace Sys2Proof.Machine

/-- `V[x]`. All 16 registers are ordinary (10_state.md R11). -/
def State.readV (s : State) (x : RegIdx) : Byte := s.v[x.val]

/-- `V[x] <- b` (10_state.md R11). -/
def State.setV (s : State) (x : RegIdx) (b : Byte) : State := { s with v := s.v.set x.val b x.isLt }

/-- `I <- w`: the full 16 bits, never masked (10_state.md R13). -/
def State.setI (s : State) (w : Word) : State := { s with i := w }

/-- `zext_16(NNN)` (30_encoding.md R67). -/
def zextNNN (nnn : BitVec 12) : Word := nnn.zeroExtend 16

/-- `zext_16` of a register (41_control_flow.md R107, 43_index_memory.md R141). -/
def zextByte (b : Byte) : Word := b.zeroExtend 16

/-- The key a register value selects: its low four bits (46_keypad_timers.md R196, D9). -/
def keyIndex (b : Byte) : Fin 16 := (b.extractLsb' 0 4).toFin

/-- Whether the key that VX selects is pressed (46_keypad_timers.md R190, R191). -/
def State.keyDown (s : State) (x : RegIdx) : Bool := s.key[(keyIndex (s.readV x)).val]

/-- `pick(key)`: a pressed key by `KEY_PICK`, none if no key is down (46_keypad_timers.md R192, D8). -/
def State.pickKey (s : State) : Option (Fin 16) :=
  match s.params.keyPick with
  | .lowest => (List.finRange 16).find? fun k => s.key[k.val]
  | .highest => (List.finRange 16).reverse.find? fun k => s.key[k.val]

/-- The address FX29 computes, 5 times the whole byte (43_index_memory.md R142, D10). -/
def glyphAddress (b : Byte) : Word := zextByte b * 5

/-- The three decimal digits FX33 stores: hundreds, tens, ones (43_index_memory.md R143). -/
def bcdDigits (b : Byte) : List Byte := [b / 100, b / 10 % 10, b % 10]

/-- V0 to VX, the block FX55 stores (43_index_memory.md R144). -/
def State.regBlock (s : State) (x : RegIdx) : List Byte := s.v.toList.take (x.val + 1)

/-- Load bytes into V0, V1, ... in order; the registers beyond them keep their values (43_index_memory.md R145). -/
def State.loadRegBlock (s : State) (bytes : List Byte) : State :=
  { s with v := Vector.ofFn fun k => bytes.getD k.val s.v[k.val] }

/-- `I <- (I + X + 1) mod 65536`, the update of FX55 and FX65 (43_index_memory.md R146). -/
def State.bumpI (s : State) (x : RegIdx) : State := s.setI (s.i + BitVec.ofNat 16 (x.val + 1))

end Sys2Proof.Machine
end

