-- ==== Sys2Proof/Machine/Flags.lean ====
section
/-! DEFINITION. The VF computations (10_state.md R12, 42_alu.md R120): VF is the machine's only flag, written 0 or 1
by exactly 8XY4, 8XY5, 8XY6, 8XY7, 8XYE, FX1E and DXYN. -/

namespace Sys2Proof.Machine

/-- VF's index, 15 (10_state.md R12). -/
abbrev vf : RegIdx := 15

/-- A flag as the byte VF holds. -/
def flagByte (c : Bool) : Byte := if c then 1 else 0

/-- `V[0xF] <- flag` (10_state.md R12). -/
def State.setFlag (s : State) (c : Bool) : State := s.setV vf (flagByte c)

/-- The carry of 8XY4: the exact sum exceeds 255 (42_alu.md R127). -/
def carryFlag (a b : Byte) : Bool := decide (255 < a.toNat + b.toNat)

/-- The inverted borrow of `a - b`: 0 if b > a, else 1 (42_alu.md R128, R130). -/
def noBorrowFlag (a b : Byte) : Bool := !decide (b.toNat > a.toNat)

/-- The bit a right shift moves out, old bit 0 (42_alu.md R129). -/
def shrFlag (a : Byte) : Bool := a.getLsbD 0

/-- The bit a left shift moves out, old bit 7 (42_alu.md R131). -/
def shlFlag (a : Byte) : Bool := a.getLsbD 7

/-- The range flag of FX1E: the exact sum exceeds 0xFFF (43_index_memory.md R141). -/
def rangeFlag (i : Word) (b : Byte) : Bool := decide (0xFFF < i.toNat + b.toNat)

/-- The order of the flag-writing ALU instructions (42_alu.md R120, D2): VF first, then VX from `result`, which
reads the register file as it stands after the VF write. -/
def State.flagThen (s : State) (c : Bool) (x : RegIdx) (result : State → Byte) : State :=
  let s1 := s.setFlag c
  s1.setV x (result s1)

end Sys2Proof.Machine
end

