-- ==== Sys2Proof/Machine/Alu.lean ====
section
/-! DEFINITION. Register loads and ALU (42_alu.md): none touches memory, none faults, all advance by 2. -/

namespace Sys2Proof.Machine

/-- 6XNN (42_alu.md R121). -/
def execLdImm (x : RegIdx) (nn : Byte) (s : State) : Host.Outcome State Fault Refusal :=
  .next (s.setV x nn).advance

/-- 7XNN (42_alu.md R122): wraps, VF is not a flag here. -/
def execAddImm (x : RegIdx) (nn : Byte) (s : State) : Host.Outcome State Fault Refusal :=
  .next (s.setV x (s.readV x + nn)).advance

/-- 8XY0 (42_alu.md R123). -/
def execLdReg (x y : RegIdx) (s : State) : Host.Outcome State Fault Refusal :=
  .next (s.setV x (s.readV y)).advance

/-- 8XY1 (42_alu.md R124). -/
def execOr (x y : RegIdx) (s : State) : Host.Outcome State Fault Refusal :=
  .next (s.setV x (s.readV x ||| s.readV y)).advance

/-- 8XY2 (42_alu.md R125). -/
def execAnd (x y : RegIdx) (s : State) : Host.Outcome State Fault Refusal :=
  .next (s.setV x (s.readV x &&& s.readV y)).advance

/-- 8XY3 (42_alu.md R126). -/
def execXor (x y : RegIdx) (s : State) : Host.Outcome State Fault Refusal :=
  .next (s.setV x (s.readV x ^^^ s.readV y)).advance

/-- 8XY4 (42_alu.md R127). -/
def execAddReg (x y : RegIdx) (s : State) : Host.Outcome State Fault Refusal :=
  .next (s.flagThen (carryFlag (s.readV x) (s.readV y)) x fun t => t.readV x + t.readV y).advance

/-- 8XY5 (42_alu.md R128). -/
def execSub (x y : RegIdx) (s : State) : Host.Outcome State Fault Refusal :=
  .next (s.flagThen (noBorrowFlag (s.readV x) (s.readV y)) x fun t => t.readV x - t.readV y).advance

/-- 8XY6 (42_alu.md R129): VY is neither read nor written. -/
def execShr (x _y : RegIdx) (s : State) : Host.Outcome State Fault Refusal :=
  .next (s.flagThen (shrFlag (s.readV x)) x fun t => t.readV x >>> 1).advance

/-- 8XY7 (42_alu.md R130). -/
def execSubn (x y : RegIdx) (s : State) : Host.Outcome State Fault Refusal :=
  .next (s.flagThen (noBorrowFlag (s.readV y) (s.readV x)) x fun t => t.readV y - t.readV x).advance

/-- 8XYE (42_alu.md R131): VY is neither read nor written. -/
def execShl (x _y : RegIdx) (s : State) : Host.Outcome State Fault Refusal :=
  .next (s.flagThen (shlFlag (s.readV x)) x fun t => t.readV x <<< 1).advance

end Sys2Proof.Machine
end

