-- ==== Sys2Proof/Machine/ControlFlow.lean ====
section
/-! DEFINITION. Control flow: return, jump, call, conditional skips, indexed jump (41_control_flow.md). -/

namespace Sys2Proof.Machine

/-- 00EE (41_control_flow.md R100). -/
def execRet (s : State) : Host.Outcome State Fault Refusal :=
  s.orFault s.pop fun p => p.2.setPc p.1

/-- 1NNN (41_control_flow.md R101). -/
def execJp (nnn : BitVec 12) (s : State) : Host.Outcome State Fault Refusal :=
  .next (s.setPc (zextNNN nnn))

/-- 2NNN (41_control_flow.md R102, C2): the return address is pushed. -/
def execCall (nnn : BitVec 12) (s : State) : Host.Outcome State Fault Refusal :=
  s.orFault (s.push s.nextPc) fun t => t.setPc (zextNNN nnn)

/-- 3XNN (41_control_flow.md R103). -/
def execSeImm (x : RegIdx) (nn : Byte) (s : State) : Host.Outcome State Fault Refusal :=
  .next (s.skipIf (s.readV x == nn))

/-- 4XNN (41_control_flow.md R104). -/
def execSneImm (x : RegIdx) (nn : Byte) (s : State) : Host.Outcome State Fault Refusal :=
  .next (s.skipIf (s.readV x != nn))

/-- 5XY0 (41_control_flow.md R105). -/
def execSeReg (x y : RegIdx) (s : State) : Host.Outcome State Fault Refusal :=
  .next (s.skipIf (s.readV x == s.readV y))

/-- 9XY0 (41_control_flow.md R106). -/
def execSneReg (x y : RegIdx) (s : State) : Host.Outcome State Fault Refusal :=
  .next (s.skipIf (s.readV x != s.readV y))

/-- BNNN (41_control_flow.md R107): always V0, the sum not reduced to 12 bits. -/
def execJpV0 (nnn : BitVec 12) (s : State) : Host.Outcome State Fault Refusal :=
  .next (s.setPc (zextNNN nnn + zextByte (s.readV 0)))

end Sys2Proof.Machine
end

