-- ==== Sys2Proof/Machine/Display.lean ====
section
/-! DEFINITION. The display instructions 00E0 and DXYN (45_display.md). -/

namespace Sys2Proof.Machine

/-- Cell (x, y) of the framebuffer, column x, row y; no cell off the display is lit (10_state.md R20). -/
def Framebuffer.cell (fb : Framebuffer) (x y : Nat) : Bool :=
  if h : y < 32 then fb[y].getLsbD x else false

/-- The targets of the set bits of one sprite row drawn at column `x0` of row `y`, left to right: column c is bit
7 - c of the byte (45_display.md R172; the bit order is PRESUMED, log 11). -/
def rowTargets (x0 y : Nat) (b : Byte) : List (Nat × Nat) :=
  ((List.range 8).filter fun c => b.getLsbD (7 - c)).map fun c => (x0 + c, y)

/-- The targets of the set bits of a sprite drawn at (x0, y0), in row-then-column order; the sums are exact, never
reduced (45_display.md R172). -/
def spriteTargets (x0 : Nat) : Nat → List Byte → List (Nat × Nat)
  | _, [] => []
  | y0, b :: rows => rowTargets x0 y0 b ++ spriteTargets x0 (y0 + 1) rows

/-- A target off the 64 x 32 display (45_display.md R173). -/
def offDisplay (p : Nat × Nat) : Bool := decide (63 < p.1 ∨ 31 < p.2)

/-- The fault of a sprite under `DRAW_EDGE_POLICY`: under `fault`, the first target off the display
(45_display.md R171, R173; 60_exceptions.md R233). -/
def displayFault (policy : DrawEdgePolicy) (targets : List (Nat × Nat)) : Option Fault :=
  match targets.find? offDisplay with
  | none => none
  | some p =>
    match policy with
    | .clip => none
    | .fault => some (.displayOutOfBounds p.1 p.2)

/-- Draw one target: the collision is noted if the cell was 1, then the cell is flipped; a target off the display is
skipped (45_display.md R171 part 3, R173). -/
def drawCell (d : Framebuffer × Bool) (p : Nat × Nat) : Framebuffer × Bool :=
  if h : p.1 < 64 ∧ p.2 < 32 then
    (d.1.set p.2 (d.1[p.2] ^^^ BitVec.twoPow 64 p.1) h.2, d.2 || d.1.cell p.1 p.2)
  else d

/-- Draw all targets in order: the framebuffer after, and whether any cell went from 1 to 0 (45_display.md R171). -/
def drawTargets (fb : Framebuffer) (targets : List (Nat × Nat)) : Framebuffer × Bool :=
  targets.foldl drawCell (fb, false)

/-- A completed draw: the cells, VF as the collision bit, `redraw` (45_display.md R171, R174). -/
def State.drawSprite (s : State) (targets : List (Nat × Nat)) : State :=
  { (s.setFlag (drawTargets s.fb targets).2) with fb := (drawTargets s.fb targets).1, redraw := true }

/-- A cleared display (45_display.md R170). -/
def State.clearDisplay (s : State) : State := { s with fb := Vector.replicate 32 0, redraw := true }

/-- 00E0 (45_display.md R170). -/
def execCls (s : State) : Host.Outcome State Fault Refusal :=
  .next s.clearDisplay.advance

/-- The cells a DXYN with these sprite bytes targets: coordinates are VX and VY as they stand before VF is written
(45_display.md R171 part 2, D3). -/
def State.drawTargetsOf (s : State) (x y : RegIdx) (sprite : List Byte) : List (Nat × Nat) :=
  spriteTargets (s.readV x).toNat (s.readV y).toNat sprite

/-- DXYN (45_display.md R171): the memory check, then the display check, then the drawing. -/
def execDrw (x y : RegIdx) (n : BitVec 4) (s : State) : Host.Outcome State Fault Refusal :=
  match s.readBlock s.i.toNat n.toNat with
  | .error f => .next (s.takeFault f)
  | .ok sprite =>
    match displayFault s.params.drawEdge (s.drawTargetsOf x y sprite) with
    | some f => .next (s.takeFault f)
    | none => .next (s.drawSprite (s.drawTargetsOf x y sprite)).advance

end Sys2Proof.Machine
end

