-- ==== Sys2Proof/Machine/IndexMemory.lean ====
section
/-! DEFINITION. The index register and the memory instructions (43_index_memory.md). -/

namespace Sys2Proof.Machine

/-- ANNN (43_index_memory.md R140). -/
def execLdI (nnn : BitVec 12) (s : State) : Host.Outcome State Fault Refusal :=
  .next (s.setI (zextNNN nnn)).advance

/-- `I <- (I + V[X]) mod 65536`, reading V[X] as it now stands (43_index_memory.md R141). -/
def State.addToI (s : State) (x : RegIdx) : State := s.setI (s.i + zextByte (s.readV x))

/-- FX1E (43_index_memory.md R141, D2): the range flag first, then the sum. -/
def execAddIVx (x : RegIdx) (s : State) : Host.Outcome State Fault Refusal :=
  .next ((s.setFlag (rangeFlag s.i (s.readV x))).addToI x).advance

/-- FX29 (43_index_memory.md R142). -/
def execLdFVx (x : RegIdx) (s : State) : Host.Outcome State Fault Refusal :=
  .next (s.setI (glyphAddress (s.readV x))).advance

/-- FX33 (43_index_memory.md R143): `I` is not changed. -/
def execLdBVx (x : RegIdx) (s : State) : Host.Outcome State Fault Refusal :=
  s.orFault (s.writeBlock s.i.toNat (bcdDigits (s.readV x))) fun t => t.advance

/-- FX55 (43_index_memory.md R144). -/
def execStRegs (x : RegIdx) (s : State) : Host.Outcome State Fault Refusal :=
  s.orFault (s.writeBlock s.i.toNat (s.regBlock x)) fun t => (t.bumpI x).advance

/-- FX65 (43_index_memory.md R145). -/
def execLdRegs (x : RegIdx) (s : State) : Host.Outcome State Fault Refusal :=
  s.orFault (s.readBlock s.i.toNat (x.val + 1)) fun bytes => ((s.loadRegBlock bytes).bumpI x).advance

end Sys2Proof.Machine
end

