-- ==== Sys2Proof/Machine/KeypadTimers.lean ====
section
/-! DEFINITION. The keypad and timer instructions (46_keypad_timers.md): none writes VF as a flag, touches memory or
faults. -/

namespace Sys2Proof.Machine

/-- EX9E (46_keypad_timers.md R190). -/
def execSkp (x : RegIdx) (s : State) : Host.Outcome State Fault Refusal :=
  .next (s.skipIf (s.keyDown x))

/-- EXA1 (46_keypad_timers.md R191). -/
def execSknp (x : RegIdx) (s : State) : Host.Outcome State Fault Refusal :=
  .next (s.skipIf (!s.keyDown x))

/-- FX07 (46_keypad_timers.md R193): the value before this cycle's post-step. -/
def execLdVxDt (x : RegIdx) (s : State) : Host.Outcome State Fault Refusal :=
  .next (s.setV x s.dt).advance

/-- FX0A (46_keypad_timers.md R192): with no key down nothing changes, `pc` included. -/
def execLdVxK (x : RegIdx) (s : State) : Host.Outcome State Fault Refusal :=
  match s.pickKey with
  | some k => .next (s.setV x (BitVec.ofNat 8 k.val)).advance
  | none => .next s

/-- `DT <- b` (10_state.md R17). -/
def State.setDt (s : State) (b : Byte) : State := { s with dt := b }

/-- `ST <- b` (10_state.md R18). -/
def State.setSt (s : State) (b : Byte) : State := { s with st := b }

/-- FX15 (46_keypad_timers.md R194). -/
def execLdDtVx (x : RegIdx) (s : State) : Host.Outcome State Fault Refusal :=
  .next (s.setDt (s.readV x)).advance

/-- FX18 (46_keypad_timers.md R195). -/
def execLdStVx (x : RegIdx) (s : State) : Host.Outcome State Fault Refusal :=
  .next (s.setSt (s.readV x)).advance

end Sys2Proof.Machine
end

