-- ==== Sys2Proof/Machine/Random.lean ====
section
/-! DEFINITION. The random source and CXNN (44_random.md). -/

namespace Sys2Proof.Machine

/-- One step of the reference generator: right shift, and the feedback mask when a 1 falls out (44_random.md
R162). -/
def lfsrStep (r : Word) : Word := if r.getLsbD 0 then (r >>> 1) ^^^ 0xB400 else r >>> 1

/-- `k` steps of the reference generator. -/
def lfsrSteps : Nat → Word → Word
  | 0, r => r
  | k + 1, r => lfsrSteps k (lfsrStep r)

/-- `random_byte()`: the byte drawn and the successor of `rng_state` (44_random.md R161 point 1). The free source
answers the free value of its draw; the reference generator takes 8 steps and answers its low byte (R162). -/
def RngState.draw : RngState → Byte × RngState
  | .free n => (Config.freeRandomByte n, .free (n + 1))
  | .reference r => ((lfsrSteps 8 r).extractLsb' 0 8, .reference (lfsrSteps 8 r))

/-- The seed at power-on (44_random.md R161 point 3, R162): the first draw, or 0xACE1. -/
def RngState.seed : RngState → RngState
  | .free _ => .free 0
  | .reference _ => .reference 0xACE1

/-- `rng_state` after a draw. -/
def State.stepRng (s : State) : State := { s with rng := s.rng.draw.2 }

/-- CXNN (44_random.md R160): one draw per execution, whatever NN is. -/
def execRnd (x : RegIdx) (nn : Byte) (s : State) : Host.Outcome State Fault Refusal :=
  .next (s.stepRng.setV x (s.rng.draw.1 &&& nn)).advance

end Sys2Proof.Machine
end

