-- ==== Sys2Proof/Machine/Cycle.lean ====
section
/-! DEFINITION. CYCLE on a loaded core (40_cycle.md R80): halted check, fetch, decode, dispatch, post-step. -/

namespace Sys2Proof.Machine

/-- The CYCLE of a core that is loaded and not halted, once the opcode is fetched (40_cycle.md R83 to R87). -/
def State.cycleWord (s : State) (w : Word) : Host.Outcome State Fault Refusal :=
  match decodeWord w with
  | .error _ => .next (s.unknownCycle w)
  | .ok i =>
    match exec i s with
    | .next t => .next t.finishCycle
    | .fault f => .fault f
    | .refused r => .refused r

/-- CYCLE (40_cycle.md R80), in the priority of 60_exceptions.md R220. -/
def State.cycle (s : State) : Host.Outcome State Fault Refusal :=
  if s.halted then .next s.haltedCycle
  else
    match s.fetch with
    | .error f => .next (s.takeFault f)
    | .ok w => s.cycleWord w

/-- The address `withFetchWord` puts its instruction at: `pc` where a fetch from it is in range, else the program's
base (40_cycle.md R82). -/
def State.fetchAddress (s : State) : Word := if s.pc.toNat ≤ 0xFFE then s.pc else 0x200

/-- A core whose next CYCLE fetches: loaded, not halted, `pc` in range (40_cycle.md R80 to R82). -/
def State.readyToFetch (s : State) : State :=
  { s with pc := s.fetchAddress, halted := false, faultCause := .none, loaded := true }

/-- A word stored at `pc`, the high byte first (20_memory.md R44). -/
def State.placeWord (s : State) (w : Word) : State :=
  s.pokeBlock s.pc.toNat [highByte w, lowByte w]

end Sys2Proof.Machine
end

