-- ==== Sys2Proof/Machine/Step.lean ====
section
/-! DEFINITION. The step: one CYCLE (00_scope.md R2, R8), refused before the first successful LOAD
(70_reset_and_hazards.md R240). -/

namespace Sys2Proof.Machine

/-- One step of the machine. -/
def step (s : State) : Host.Outcome State Fault Refusal :=
  if s.loaded then s.cycle else .refused .notLoaded

/-- The state whose very next step runs the instruction of the first `nbits` bits of `w` (log 3): it stands for the
LOAD that would place it. -/
def State.withFetchWord (s : State) (nbits w : Nat) : State :=
  s.readyToFetch.placeWord (tableWord nbits w)

end Sys2Proof.Machine
end

