-- ==== Sys2Proof/WellFormed.lean ====
section
/-! DEFINITION. What is well formed. An `Instr` term carries its own well-formedness: its fields have exactly the
widths of 30_encoding.md R61, so there is no ill-formed operand to refuse. What can be ill formed is a WORD
(30_encoding.md R63 to R65: it matches no row of the opcode map) and a PROGRAM (70_reset_and_hazards.md R242: it
is too long). The map here is the mask-and-match table of R64; the decoder of Decode.lean is written from the
case analysis of R63 instead, so that each can be held against the other. -/

namespace Sys2Proof

/-- One row of the opcode map (30_encoding.md R64): a word is the instruction iff `w &&& mask = pattern`. -/
structure OpcodeRow where
  mnemonic : String
  mask : Word
  pattern : Word
deriving DecidableEq, Repr

/-- The word has every fixed digit of the row (30_encoding.md R64, D1). -/
def OpcodeRow.fits (r : OpcodeRow) (w : Word) : Bool := (w &&& r.mask) == r.pattern

/-- Rows 1 to 17 of the map of 30_encoding.md R64. -/
def opcodeRowsFirst : List OpcodeRow := [
  ⟨"CLS", 0xFFFF, 0x00E0⟩,
  ⟨"RET", 0xFFFF, 0x00EE⟩,
  ⟨"JP", 0xF000, 0x1000⟩,
  ⟨"CALL", 0xF000, 0x2000⟩,
  ⟨"SE_IMM", 0xF000, 0x3000⟩,
  ⟨"SNE_IMM", 0xF000, 0x4000⟩,
  ⟨"SE_REG", 0xF00F, 0x5000⟩,
  ⟨"SNE_REG", 0xF00F, 0x9000⟩,
  ⟨"LD_IMM", 0xF000, 0x6000⟩,
  ⟨"ADD_IMM", 0xF000, 0x7000⟩,
  ⟨"LD_REG", 0xF00F, 0x8000⟩,
  ⟨"OR", 0xF00F, 0x8001⟩,
  ⟨"AND", 0xF00F, 0x8002⟩,
  ⟨"XOR", 0xF00F, 0x8003⟩,
  ⟨"ADD_REG", 0xF00F, 0x8004⟩,
  ⟨"SUB", 0xF00F, 0x8005⟩,
  ⟨"SHR", 0xF00F, 0x8006⟩]

/-- Rows 18 to 34 of the map of 30_encoding.md R64. -/
def opcodeRowsSecond : List OpcodeRow := [
  ⟨"SUBN", 0xF00F, 0x8007⟩,
  ⟨"SHL", 0xF00F, 0x800E⟩,
  ⟨"LD_I", 0xF000, 0xA000⟩,
  ⟨"JP_V0", 0xF000, 0xB000⟩,
  ⟨"RND", 0xF000, 0xC000⟩,
  ⟨"DRW", 0xF000, 0xD000⟩,
  ⟨"SKP", 0xF0FF, 0xE09E⟩,
  ⟨"SKNP", 0xF0FF, 0xE0A1⟩,
  ⟨"LD_VX_DT", 0xF0FF, 0xF007⟩,
  ⟨"LD_VX_K", 0xF0FF, 0xF00A⟩,
  ⟨"LD_DT_VX", 0xF0FF, 0xF015⟩,
  ⟨"LD_ST_VX", 0xF0FF, 0xF018⟩,
  ⟨"ADD_I_VX", 0xF0FF, 0xF01E⟩,
  ⟨"LD_F_VX", 0xF0FF, 0xF029⟩,
  ⟨"LD_B_VX", 0xF0FF, 0xF033⟩,
  ⟨"ST_REGS", 0xF0FF, 0xF055⟩,
  ⟨"LD_REGS", 0xF0FF, 0xF065⟩]

/-- The complete opcode map, 34 rows in the table's order (30_encoding.md R64). -/
def opcodeMap : List OpcodeRow := opcodeRowsFirst ++ opcodeRowsSecond

/-- A word is well formed when it is an instruction: some row fits it (30_encoding.md R63, R65). -/
def wordWf (w : Word) : Bool := opcodeMap.any fun r => r.fits w

/-- A program is well formed when LOAD accepts it: at most 3584 bytes, any bytes (70_reset_and_hazards.md
R241, R242). -/
def programWf (bytes : List Byte) : Bool := decide (bytes.length ≤ Config.maxRom)

end Sys2Proof
end

