-- ==== Sys2Proof/Machine/HostOps.lean ====
section
/-! DEFINITION. What the host can do between cycles (00_scope.md R8, 70_reset_and_hazards.md R240 to R249): power-on,
LOAD, the keypad, the framebuffer, the two flags and the fault status; and the moves of the interleaving, CYCLE among
them. -/

namespace Sys2Proof.Machine

/-- What LOAD returns (00_scope.md R8, 70_reset_and_hazards.md R241, R242). -/
inductive LoadResult where
  | ok
  | sizeError
deriving DecidableEq, Repr

/-- Power-on (70_reset_and_hazards.md R240): the random source is seeded, no program is loaded, and every other piece
of state is whatever `junk` holds, because the spec leaves it unspecified (log 8). -/
def State.powerOn (junk : State) : State := { junk with rng := junk.rng.seed, loaded := false }

/-- The state of a successful LOAD: everything reset but `rng_state`, the font in place, the bytes copied to 0x200
(70_reset_and_hazards.md R241). -/
def State.afterLoad (bytes : List Byte) (s : State) : State :=
  (State.cleared s.params s.rng).pokeBlock Config.programBase bytes

/-- LOAD, the machine's only reset and its only way out of `halted` (70_reset_and_hazards.md R241, R242, R246): the
length check comes first, and a failed LOAD changes nothing. -/
def State.load (bytes : List Byte) (s : State) : LoadResult × State :=
  if programWf bytes then (.ok, s.afterLoad bytes) else (.sizeError, s)

/-- Write one key (70_reset_and_hazards.md R249). -/
def State.setKey (s : State) (k : Fin 16) (down : Bool) : State :=
  { s with key := s.key.set k.val down k.isLt }

/-- Clear `redraw` (10_state.md R21). -/
def State.clearRedraw (s : State) : State := { s with redraw := false }

/-- Consume `beep` (10_state.md R23). -/
def State.consumeBeep (s : State) : State := { s with beep := false }

/-- EVERY HOST ACCESS BUT LOAD, a read or a write: it answers only once a LOAD has succeeded
(70_reset_and_hazards.md R240 (c); 93_implementation_defined.md U17). -/
def State.access {α : Type} (s : State) (a : α) : Host.Outcome α Fault Refusal :=
  if s.loaded then .next a else .refused .notLoaded

/-- Read one cell of the framebuffer by its linear index x + 64*y (10_state.md R20). -/
def State.readCell (s : State) (index : Fin 2048) : Host.Outcome Bool Fault Refusal :=
  s.access (s.fb.cell (index.val % 64) (index.val / 64))

/-- Read `redraw` (10_state.md R21). -/
def State.readRedraw (s : State) : Host.Outcome Bool Fault Refusal := s.access s.redraw

/-- Read `beep` (10_state.md R23). -/
def State.readBeep (s : State) : Host.Outcome Bool Fault Refusal := s.access s.beep

/-- Read the fault status: the latch, the code of the cause, the last CycleResult (00_scope.md R8). -/
def State.faultStatus (s : State) : Host.Outcome (Bool × BitVec 3 × Option CycleResult) Fault Refusal :=
  s.access (s.halted, s.faultCause.code, s.lastResult)

/-- The code of a CycleResult (60_exceptions.md R216, R217): 1 for UnknownOpcode, which is never stored. -/
def CycleResult.code : CycleResult → BitVec 3
  | .ok => 0
  | .unknownOpcode _ _ => 1
  | .fault f => f.cause.code
  | .stillHalted c => c.code

/-- The moves of one interleaving that change state (70_reset_and_hazards.md R249); the host's reads answer a
value and change nothing. -/
inductive HostMove where
  | load (bytes : List Byte)
  | cycle
  | setKey (k : Fin 16) (down : Bool)
  | clearRedraw
  | consumeBeep
deriving DecidableEq, Repr

/-- One move, whole: no move falls inside a CYCLE (20_memory.md R53, 40_cycle.md R89). -/
def State.perform (s : State) : HostMove → Host.Outcome State Fault Refusal
  | .load bytes => .next (s.load bytes).2
  | .cycle => step s
  | .setKey k down => s.access (s.setKey k down)
  | .clearRedraw => s.access s.clearRedraw
  | .consumeBeep => s.access s.consumeBeep

end Sys2Proof.Machine
end

