-- ==== Sys2Proof/Safety.lean ====
section
/-! DEFINITION. What counts as a safe run, in the terms the statements use: states in which an instruction can run,
the invariant of 10_state.md R14 and R27, the end of a program (70_reset_and_hazards.md R253), and the spec's own
lists of what each instruction may do to `pc` (40_cycle.md R85) and to the registers (10_state.md R11, R12). -/

namespace Sys2Proof.Machine

/-- `k` CYCLEs in a row, stopping where a step has no next state (70_reset_and_hazards.md R249: the host acts only
between them). -/
def runSteps : Nat → State → Host.Outcome State Fault Refusal
  | 0, s => .next s
  | k + 1, s =>
    match step s with
    | .next t => runSteps k t
    | .fault f => .fault f
    | .refused r => .refused r

/-- A core that is running: loaded and not halted (40_cycle.md R81, 70_reset_and_hazards.md R240). -/
structure State.Running (s : State) : Prop where
  loaded : s.loaded = true
  notHalted : s.halted = false

/-- The next CYCLE fetches exactly the word `w` (40_cycle.md R82, 20_memory.md R44), said byte by byte. -/
structure State.Fetches (s : State) (w : Word) : Prop where
  running : s.Running
  inRange : s.pc.toNat ≤ 0xFFE
  high : s.peek s.pc.toNat = highByte w
  low : s.peek (s.pc.toNat + 1) = lowByte w

/-- The reference generator's register is never zero (44_random.md R162); the free source has no such rule. -/
def RngState.legal : RngState → Prop
  | .free _ => True
  | .reference r => r ≠ 0

/-- The invariant of the machine: memory in canonical form; `pc` at most 0x10FE (10_state.md R14); every stack entry
at most 0x1000 (R27); `halted` set exactly when a cause is recorded (R25); the reference generator not zero. -/
structure State.Inv (s : State) : Prop where
  memory : Memory.wf s.params.font s.mem
  pc : s.pc.toNat ≤ 0x10FE
  stack : ∀ k : Fin 16, s.stack[k.val].toNat ≤ 0x1000
  halt : s.halted = true ↔ s.faultCause ≠ .none
  rng : s.rng.legal

/-- The program has finished (70_reset_and_hazards.md R253): `pc` addresses a 1NNN whose target is its own address,
and the core is not halted. -/
def State.Finished (s : State) : Prop :=
  ∃ nnn : BitVec 12, s.pc = nnn.zeroExtend 16 ∧ s.Fetches (encodeWord (.jp nnn))

/-- How an instruction moves `pc`, the "pc advance" column (40_cycle.md R85). -/
inductive PcClass where
  /-- "+2" -/
  | sequential
  /-- "+4 or +2" -/
  | skip
  /-- "set directly" -/
  | direct
  /-- "+2 or unchanged" -/
  | stall
deriving DecidableEq, Repr

/-- The class of each instruction (40_cycle.md R85). -/
def pcClass : Instr → PcClass
  | .cls => .sequential
  | .ret => .direct
  | .jp _ => .direct
  | .call _ => .direct
  | .seImm _ _ => .skip
  | .sneImm _ _ => .skip
  | .seReg _ _ => .skip
  | .sneReg _ _ => .skip
  | .ldImm _ _ => .sequential
  | .addImm _ _ => .sequential
  | .ldReg _ _ => .sequential
  | .or _ _ => .sequential
  | .and _ _ => .sequential
  | .xor _ _ => .sequential
  | .addReg _ _ => .sequential
  | .sub _ _ => .sequential
  | .shr _ _ => .sequential
  | .subn _ _ => .sequential
  | .shl _ _ => .sequential
  | .ldI _ => .sequential
  | .jpV0 _ => .direct
  | .rnd _ _ => .sequential
  | .drw _ _ _ => .sequential
  | .skp _ => .skip
  | .sknp _ => .skip
  | .ldVxDt _ => .sequential
  | .ldVxK _ => .stall
  | .ldDtVx _ => .sequential
  | .ldStVx _ => .sequential
  | .addIVx _ => .sequential
  | .ldFVx _ => .sequential
  | .ldBVx _ => .sequential
  | .stRegs _ => .sequential
  | .ldRegs _ => .sequential

/-- Whether an instruction writes VF as a flag: exactly 8XY4, 8XY5, 8XY6, 8XY7, 8XYE, FX1E and DXYN (10_state.md
R12). -/
def writesFlag : Instr → Bool
  | .cls => false
  | .ret => false
  | .jp _ => false
  | .call _ => false
  | .seImm _ _ => false
  | .sneImm _ _ => false
  | .seReg _ _ => false
  | .sneReg _ _ => false
  | .ldImm _ _ => false
  | .addImm _ _ => false
  | .ldReg _ _ => false
  | .or _ _ => false
  | .and _ _ => false
  | .xor _ _ => false
  | .addReg _ _ => true
  | .sub _ _ => true
  | .shr _ _ => true
  | .subn _ _ => true
  | .shl _ _ => true
  | .ldI _ => false
  | .jpV0 _ => false
  | .rnd _ _ => false
  | .drw _ _ _ => true
  | .skp _ => false
  | .sknp _ => false
  | .ldVxDt _ => false
  | .ldVxK _ => false
  | .ldDtVx _ => false
  | .ldStVx _ => false
  | .addIVx _ => true
  | .ldFVx _ => false
  | .ldBVx _ => false
  | .stRegs _ => false
  | .ldRegs _ => false

/-- Whether an instruction has register `r` as its primary destination: VX for 6XNN, 7XNN, 8XY0 to 8XY7, 8XYE, CXNN,
FX07 and FX0A, V0 to VX for FX65 (10_state.md R11). -/
def writesReg (r : RegIdx) : Instr → Bool
  | .cls => false
  | .ret => false
  | .jp _ => false
  | .call _ => false
  | .seImm _ _ => false
  | .sneImm _ _ => false
  | .seReg _ _ => false
  | .sneReg _ _ => false
  | .ldImm x _ => r == x
  | .addImm x _ => r == x
  | .ldReg x _ => r == x
  | .or x _ => r == x
  | .and x _ => r == x
  | .xor x _ => r == x
  | .addReg x _ => r == x
  | .sub x _ => r == x
  | .shr x _ => r == x
  | .subn x _ => r == x
  | .shl x _ => r == x
  | .ldI _ => false
  | .jpV0 _ => false
  | .rnd x _ => r == x
  | .drw _ _ _ => false
  | .skp _ => false
  | .sknp _ => false
  | .ldVxDt x => r == x
  | .ldVxK x => r == x
  | .ldDtVx _ => false
  | .ldStVx _ => false
  | .addIVx _ => false
  | .ldFVx _ => false
  | .ldBVx _ => false
  | .stRegs _ => false
  | .ldRegs x => decide (r ≤ x)

/-- Cell (cx, cy) is the target of a set bit of the N-row sprite that DXYN would draw from this state: row r is the
byte at `I + r`, column c its bit 7 - c, drawn at (VX + c, VY + r), the sums exact (45_display.md R172). -/
def State.SpriteCovers (s : State) (x y : RegIdx) (n : BitVec 4) (cx cy : Nat) : Prop :=
  ∃ r < n.toNat, ∃ c < 8, cx = s.v[x.val].toNat + c ∧ cy = s.v[y.val].toNat + r ∧
    (s.peek (s.i.toNat + r)).getLsbD (7 - c) = true

end Sys2Proof.Machine
end

