-- ==== Sys2Proof/Certificates/Slice0/Obligations.lean ====
section
/-! DEFINITION. The statements for the provers. A next state is written out whole, as a record update of the state
before, so that each such statement says the result, that the instruction completes, and that nothing else
changes. Nothing here fixes the parameters of 00_scope.md R4: a statement holds for every `FONT`, edge policy, key
pick and random source. -/

open Sys2Proof Sys2Proof.Machine

/-! ### Reset, LOAD and power-on -/

/-- 10_state.md R28: what the machine holds right after reset, LOAD of the empty sequence. The zeros that the spec's
D21 adds and the choice of the empty program (log 3) are choices, so the basis is derived. -/
def Obligations.ResetLeavesTheListedValues : Prop :=
  State.reset.pc = 0x200 ∧ State.reset.i = 0 ∧ State.reset.sp = 0 ∧ State.reset.dt = 0 ∧ State.reset.st = 0 ∧
  State.reset.redraw = false ∧ State.reset.beep = false ∧ State.reset.halted = false ∧
  State.reset.faultCause.code = 0 ∧ (∀ x : RegIdx, State.reset.v[x.val] = 0) ∧
  (∀ k : Fin 16, State.reset.stack[k.val] = 0) ∧ (∀ k : Fin 16, State.reset.key[k.val] = false) ∧
  (∀ cx cy : Nat, State.reset.fb.cell cx cy = false) ∧
  (∀ a : Fin 80, State.reset.peek a.val = State.reset.params.font[a.val]) ∧
  ∀ a : Nat, 80 ≤ a → State.reset.peek a = 0

/-- 70_reset_and_hazards.md R241 and R242: LOAD of at most 3584 bytes installs the font at 0 and the bytes at 0x200,
zeroes everything else, keeps the random source, and leaves the halt; a longer one changes nothing. Which items
are zeroed is the spec's D21, the order of the length check its D20, so the basis is derived. -/
def Obligations.LoadResetsAndInstallsTheProgram : Prop :=
  ∀ (bytes : List Byte) (s : State),
    (bytes.length ≤ 3584 → ∃ t, s.load bytes = (.ok, t) ∧
      t.pc = 0x200 ∧ t.i = 0 ∧ t.sp = 0 ∧ t.dt = 0 ∧ t.st = 0 ∧ t.redraw = false ∧ t.beep = false ∧
      t.halted = false ∧ t.faultCause.code = 0 ∧ t.loaded = true ∧ t.rng = s.rng ∧ t.params = s.params ∧
      (∀ x : RegIdx, t.v[x.val] = 0) ∧ (∀ k : Fin 16, t.stack[k.val] = 0) ∧
      (∀ k : Fin 16, t.key[k.val] = false) ∧ (∀ cx cy : Nat, t.fb.cell cx cy = false) ∧
      (∀ a : Fin 80, t.peek a.val = s.params.font[a.val]) ∧
      (∀ (j : Nat) (h : j < bytes.length), t.peek (0x200 + j) = bytes[j]) ∧
      (∀ a : Nat, 80 ≤ a ∧ a < 0x200 ∨ 0x200 + bytes.length ≤ a → t.peek a = 0)) ∧
    (3584 < bytes.length → s.load bytes = (.sizeError, s))

/-- 70_reset_and_hazards.md R240, R249: before the first successful LOAD a CYCLE and every access of the host, a read or
a write, are refused (D20, log 3); after it each access has its own effect and no other. Power-on unloads the core (log 8)
and seeds the random source: the reference one with 0xACE1 (44_random.md R162, the spec's D19), the free one with draw 0,
which is the model's own choice (DESIGN CHOICE, log 4). -/
def Obligations.CycleBeforeLoadIsRefused : Prop :=
  (∀ s : State, s.loaded = false →
    step s = .refused .notLoaded ∧
    (∀ m : HostMove, (∀ bytes, m ≠ .load bytes) → s.perform m = .refused .notLoaded) ∧
    (∀ c : Fin 2048, s.readCell c = .refused .notLoaded) ∧ s.readRedraw = .refused .notLoaded ∧
    s.readBeep = .refused .notLoaded ∧ s.faultStatus = .refused .notLoaded) ∧
  (∀ s : State, s.loaded = true →
    (∀ (k : Fin 16) (down : Bool), ∃ t, s.perform (.setKey k down) = .next t ∧ t.key[k.val] = down ∧
      (∀ j : Fin 16, j ≠ k → t.key[j.val] = s.key[j.val]) ∧ t = { s with key := t.key }) ∧
    s.perform .clearRedraw = .next { s with redraw := false } ∧
    s.perform .consumeBeep = .next { s with beep := false } ∧ s.perform .cycle = step s ∧
    (∀ (c : Fin 2048) (x y : Nat), x < 64 → y < 32 → c.val = x + 64 * y → s.readCell c = .next (s.fb.cell x y)) ∧
    s.readRedraw = .next s.redraw ∧ s.readBeep = .next s.beep ∧
    s.faultStatus = .next (s.halted, s.faultCause.code, s.lastResult)) ∧
  (∀ (s : State) (bytes : List Byte), s.perform (.load bytes) = .next (s.load bytes).2) ∧
  (∀ junk : State, step junk.powerOn = .refused .notLoaded) ∧
  (∀ (junk : State) (n : Nat), junk.rng = .free n → junk.powerOn.rng = .free 0) ∧
  ∀ (junk : State) (r : Word), junk.rng = .reference r → junk.powerOn.rng = .reference 0xACE1

/-! ### The step -/

/-- 40_cycle.md R81 and 60_exceptions.md R219 (D14): once halted, any number of CYCLEs change nothing and report the
stored cause. -/
def Obligations.HaltedCoreStaysAsItIs : Prop :=
  ∀ (s : State) (k : Nat), s.loaded = true → s.halted = true →
    runSteps (k + 1) s = .next { s with lastResult := some (.stillHalted s.faultCause) }

/-- 40_cycle.md R82 (D17, D14): a fetch with `pc` above 0xFFE takes MemoryOutOfBounds and reports `pc`, or 0x1000 when
`pc` is 0xFFF. -/
def Obligations.FetchOutOfRangeFaults : Prop :=
  ∀ s : State, s.Running → 0xFFE < s.pc.toNat →
    step s = .next { s with
      halted := true
      faultCause := .memoryOutOfBounds
      lastResult := some (.fault (.memoryOutOfBounds (if s.pc.toNat = 0xFFF then 0x1000 else s.pc.toNat))) }

/-- 40_cycle.md R80, R83, R87: when the two bytes at `pc` decode to an instruction, the step is that instruction's
`exec`, then (unless it took a fatal fault, D14) the timer post-step and the result `Ok` (log 2). -/
def Obligations.StepRunsTheDecodedInstruction : Prop :=
  ∀ (s t : State) (i : Instr), s.Running → s.pc.toNat ≤ 0xFFE →
    decodeBytes [s.peek s.pc.toNat, s.peek (s.pc.toNat + 1)] = .ok (i, []) → exec i s = .next t →
    (t.halted = true → step s = .next t) ∧
    (t.halted = false → step s = .next { t with
      dt := if t.dt = 0 then 0 else t.dt - 1
      st := if t.st = 0 then 0 else t.st - 1
      beep := if t.st = 1 then true else t.beep
      lastResult := some .ok })

/-- 40_cycle.md R84: a word that matches no row of the opcode map changes nothing but the timers and the beep, is
reported with its address, and is met again by every later CYCLE. -/
def Obligations.UnknownOpcodeIsReportedForever : Prop :=
  ∀ (s : State) (w : Word), s.Fetches w → wordWf w = false →
    step s = .next { s with
      dt := if s.dt = 0 then 0 else s.dt - 1
      st := if s.st = 0 then 0 else s.st - 1
      beep := if s.st = 1 then true else s.beep
      lastResult := some (.unknownOpcode s.pc w) } ∧
    ∀ k : Nat, ∃ t : State, runSteps (k + 1) s = .next t ∧
      t = { s with dt := t.dt, st := t.st, beep := t.beep, lastResult := some (.unknownOpcode s.pc w) }

/-- 40_cycle.md R80, R86 (log 1): an instruction always answers a next state, and so does the step of a loaded core:
nothing in the machine ends a run. -/
def Obligations.LoadedStepAlwaysAnswersNext : Prop :=
  (∀ (i : Instr) (s : State), ∃ t, exec i s = .next t) ∧ ∀ s : State, s.loaded = true → ∃ t, step s = .next t

/-- 10_state.md R14, R25, R27, 44_random.md R162: every step keeps the invariant: memory canonical, `pc` at most
0x10FE, every stack entry at most 0x1000, the halt latch set exactly when a cause is recorded, the reference
generator not zero. -/
def Obligations.EveryStepKeepsTheInvariant : Prop :=
  ∀ s t : State, s.Inv → step s = .next t → t.Inv

/-- The invariant holds at reset. -/
def Obligations.InvariantHoldsAtReset : Prop := State.reset.Inv

/-- The invariant holds after every successful LOAD, of any program, over any earlier state whose random source is
legal (70_reset_and_hazards.md R241, R246). -/
def Obligations.InvariantHoldsAfterLoad : Prop :=
  ∀ (bytes : List Byte) (s t : State), s.rng.legal → s.load bytes = (.ok, t) → t.Inv

/-! ### Faults, and who may change what -/

/-- 40_cycle.md R86 and 60_exceptions.md R218 (D14): a step that ends in a fatal fault leaves everything as it was but
the halt latch, the recorded cause and the report, which agree. -/
def Obligations.FatalFaultsArePrecise : Prop :=
  ∀ s t : State, s.halted = false → step s = .next t → t.halted = true →
    ∃ f : Fault, t = { s with halted := true, faultCause := f.cause, lastResult := some (.fault f) }

/-- 60_exceptions.md R212 to R214, R220, R233: the only instructions that take a fatal fault, and when. -/
def Obligations.OnlyTheListedInstructionsFault : Prop :=
  ∀ (i : Instr) (s t : State), s.halted = false → exec i s = .next t → t.halted = true →
    (i = .ret ∧ s.sp.val = 0) ∨ (∃ nnn, i = .call nnn ∧ s.sp.val = 16) ∨
    (∃ x y n, i = .drw x y n ∧
      (0 < n.toNat ∧ 0xFFF < s.i.toNat + n.toNat - 1 ∨
        s.params.drawEdge = .fault ∧ ∃ cx cy, s.SpriteCovers x y n cx cy ∧ (63 < cx ∨ 31 < cy))) ∨
    (∃ x, i = .ldBVx x ∧ 0xFFF < s.i.toNat + 2) ∨
    ∃ x : RegIdx, (i = .stRegs x ∨ i = .ldRegs x) ∧ 0xFFF < s.i.toNat + x.val

/-- 40_cycle.md R85: the new `pc` of each of the four classes of instruction that completes. That the target of BNNN is
not reduced is the spec's D17 (log 9). -/
def Obligations.NextPcFollowsTheClass : Prop :=
  ∀ (i : Instr) (s t : State), exec i s = .next t → t.halted = false →
    (pcClass i = .sequential → t.pc = s.pc + 2) ∧
    (pcClass i = .skip → t.pc = s.pc + 4 ∨ t.pc = s.pc + 2) ∧
    (pcClass i = .stall → t.pc = s.pc + 2 ∨ t.pc = s.pc) ∧
    (pcClass i = .direct →
      (∃ nnn, (i = .jp nnn ∨ i = .call nnn) ∧ t.pc = nnn.zeroExtend 16) ∨
      (∃ nnn, i = .jpV0 nnn ∧ t.pc.toNat = nnn.toNat + s.v[0].toNat) ∨
      (i = .ret ∧ ∃ k : Fin 16, s.sp.val = k.val + 1 ∧ t.pc = s.stack[k.val]))

/-- 20_memory.md R46: no instruction but FX33 and FX55 changes memory. -/
def Obligations.OnlyStoresWriteMemory : Prop :=
  ∀ (i : Instr) (s t : State), exec i s = .next t → (∀ x, i ≠ .ldBVx x) → (∀ x, i ≠ .stRegs x) → t.mem = s.mem

/-- 10_state.md R20, R21: no instruction but 00E0 and DXYN changes the framebuffer or `redraw`. -/
def Obligations.OnlyDisplayInstructionsWriteTheDisplay : Prop :=
  ∀ (i : Instr) (s t : State), exec i s = .next t → i ≠ .cls → (∀ x y n, i ≠ .drw x y n) →
    t.fb = s.fb ∧ t.redraw = s.redraw

/-- 10_state.md R15, R16: no instruction but 2NNN and 00EE moves `sp`, and no instruction but 2NNN changes a stack
entry. That 00EE leaves the entry it pops as it was is the spec's D13 (DESIGN CHOICE, log 13). -/
def Obligations.OnlyCallAndReturnTouchTheStack : Prop :=
  ∀ (i : Instr) (s t : State), exec i s = .next t → (∀ nnn, i ≠ .call nnn) →
    t.stack = s.stack ∧ (i ≠ .ret → t.sp = s.sp)

/-- 10_state.md R13, R17, R18 and 44_random.md R161: `I` is written only by ANNN, FX1E, FX29, FX55 and FX65, `DT` only
by FX15, `ST` only by FX18, and the random source moves only with CXNN. -/
def Obligations.OnlyTheirInstructionsWriteSpecialRegisters : Prop :=
  ∀ (i : Instr) (s t : State), exec i s = .next t →
    ((∀ nnn, i ≠ .ldI nnn) → (∀ x, i ≠ .addIVx x) → (∀ x, i ≠ .ldFVx x) → (∀ x, i ≠ .stRegs x) →
      (∀ x, i ≠ .ldRegs x) → t.i = s.i) ∧
    ((∀ x, i ≠ .ldDtVx x) → t.dt = s.dt) ∧ ((∀ x, i ≠ .ldStVx x) → t.st = s.st) ∧
    ((∀ x nn, i ≠ .rnd x nn) → t.rng = s.rng)

/-- 10_state.md R11, R12: an instruction changes no general register but its primary destination and, for the seven
flag-writing instructions, VF. -/
def Obligations.OnlyDestinationsAndTheFlagChange : Prop :=
  ∀ (i : Instr) (s t : State) (r : RegIdx), exec i s = .next t → writesReg r i = false →
    (writesFlag i = true → r ≠ 15) → t.v[r.val] = s.v[r.val]

/-- 10_state.md R12: an instruction that writes VF as a flag and completes leaves it 0 or 1, unless VF is also its
primary destination. -/
def Obligations.FlagWritersLeaveZeroOrOne : Prop :=
  ∀ (i : Instr) (s t : State), exec i s = .next t → t.halted = false → writesFlag i = true →
    writesReg 15 i = false → t.v[15] = 0 ∨ t.v[15] = 1

/-- 10_state.md R21 to R23, R29: no step changes the keypad or the parameters or unloads the core, and no step clears
`redraw` or `beep`. -/
def Obligations.StepLeavesTheHostsStateAlone : Prop :=
  ∀ s t : State, step s = .next t →
    t.key = s.key ∧ t.params = s.params ∧ t.loaded = s.loaded ∧ (s.redraw = true → t.redraw = true) ∧
    (s.beep = true → t.beep = true)

/-- Every move of the host and the core keeps the invariant (70_reset_and_hazards.md R249, 10_state.md R27, R29). -/
def Obligations.EveryMoveKeepsTheInvariant : Prop :=
  ∀ (m : HostMove) (s t : State), s.Inv → s.perform m = .next t → t.Inv

/-- 60_exceptions.md R219, R223 (D14, D20): of all moves only a successful LOAD leaves the halted state. -/
def Obligations.OnlyLoadLeavesTheHalt : Prop :=
  ∀ (m : HostMove) (s t : State), s.halted = true → s.perform m = .next t →
    (t.halted = false ↔ ∃ bytes : List Byte, bytes.length ≤ 3584 ∧ m = .load bytes)

/-! ### Encoding -/

/-- 30_encoding.md R60 to R64: decoding what the encoder writes gives the instruction back, whole, and the bytes that
follow. -/
def Obligations.DecodeOfEncodeIsTheInstruction : Prop :=
  ∀ (i : Instr) (rest : List Byte), decodeBytes (encode i ++ rest) = .ok (i, rest)

/-- 30_encoding.md R63: an instruction has one word only: what decodes to it is what the encoder writes. -/
def Obligations.EncodeOfDecodeIsTheWord : Prop :=
  ∀ (w : Word) (i : Instr), decodeWord w = .ok i → encodeWord i = w

/-- 30_encoding.md R63 to R65 (D1): the decoder accepts exactly the words that a row of the mask-and-match map fits, and
refuses the others by name. -/
def Obligations.DecoderAcceptsExactlyTheMap : Prop :=
  ∀ w : Word, (wordWf w = true → ∃ i, decodeWord w = .ok i) ∧
    (wordWf w = false → decodeWord w = .error (.unknownOpcode w))

/-- 30_encoding.md R63: no two rows of the opcode map fit one word. -/
def Obligations.NoTwoRowsFitOneWord : Prop :=
  ∀ (w : Word) (r q : OpcodeRow), r ∈ opcodeMap → q ∈ opcodeMap → r.fits w = true → q.fits w = true → r = q

/-- 30_encoding.md R65 (D1): the words that are no instruction, family by family, in the arithmetic of the word. -/
def Obligations.UnknownWordsAreTheListedOnes : Prop :=
  ∀ w : Word, wordWf w = false ↔
    (w.toNat / 4096 = 0x0 ∧ w ≠ 0x00E0 ∧ w ≠ 0x00EE) ∨
    (w.toNat / 4096 = 0x5 ∧ w.toNat % 16 ≠ 0) ∨
    (w.toNat / 4096 = 0x8 ∧ w.toNat % 16 ∈ [0x8, 0x9, 0xA, 0xB, 0xC, 0xD, 0xF]) ∨
    (w.toNat / 4096 = 0x9 ∧ w.toNat % 16 ≠ 0) ∨
    (w.toNat / 4096 = 0xE ∧ w.toNat % 256 ∉ [0x9E, 0xA1]) ∨
    (w.toNat / 4096 = 0xF ∧ w.toNat % 256 ∉ [0x07, 0x0A, 0x15, 0x18, 0x1E, 0x29, 0x33, 0x55, 0x65])

/-- 30_encoding.md R64: words written out from the patterns, one or more of each of the sixteen families of R63. That
0x00E1 is refused is the spec's D1 (DESIGN CHOICE, log 9). -/
def Obligations.SampleWordsDecode : Prop :=
  decodeWord 0x00EE = .ok .ret ∧ decodeWord 0x1ABC = .ok (.jp 0xABC) ∧ decodeWord 0x3A2B = .ok (.seImm 0xA 0x2B) ∧
  decodeWord 0x4A2B = .ok (.sneImm 0xA 0x2B) ∧ decodeWord 0x6A7F = .ok (.ldImm 0xA 0x7F) ∧
  decodeWord 0x7105 = .ok (.addImm 1 0x05) ∧ decodeWord 0x9120 = .ok (.sneReg 1 2) ∧
  decodeWord 0xA2F0 = .ok (.ldI 0x2F0) ∧ decodeWord 0xB4FF = .ok (.jpV0 0x4FF) ∧
  decodeWord 0x2ABC = .ok (.call 0xABC) ∧ decodeWord 0x5120 = .ok (.seReg 1 2) ∧
  decodeWord 0x8124 = .ok (.addReg 1 2) ∧ decodeWord 0xF355 = .ok (.stRegs 3) ∧
  decodeWord 0xC30F = .ok (.rnd 3 0x0F) ∧ decodeWord 0xD123 = .ok (.drw 1 2 3) ∧
  decodeWord 0xE5A1 = .ok (.sknp 5) ∧ decodeWord 0xF10A = .ok (.ldVxK 1) ∧
  decodeWord 0x00E1 = .error (.unknownOpcode 0x00E1)

/-! ### Control flow -/

/-- 41_control_flow.md R101: the encoding and the effect. -/
def Obligations.JumpSetsThePc : Prop :=
  ∀ (nnn : BitVec 12) (s : State), decodeWord (wordNNN 0x1 nnn) = .ok (.jp nnn) ∧
    exec (.jp nnn) s = .next { s with pc := nnn.zeroExtend 16 }

/-- 41_control_flow.md R102, 60_exceptions.md R212. What is pushed is the spec's D12 (C2), the range of `sp` its D13, the
precise fault its D14. -/
def Obligations.CallPushesTheReturnAddress : Prop :=
  ∀ (nnn : BitVec 12) (s : State),
    (∀ h : s.sp.val < 16, exec (.call nnn) s = .next { s with
      stack := s.stack.set s.sp.val (s.pc + 2) h
      sp := s.sp + 1
      pc := nnn.zeroExtend 16 }) ∧
    (s.sp.val = 16 → exec (.call nnn) s = .next { s with
      halted := true
      faultCause := .stackOverflow
      lastResult := some (.fault (.stackOverflow s.pc)) })

/-- 41_control_flow.md R100, 60_exceptions.md R213. That the popped entry stays is the spec's D13, the precise fault its
D14. -/
def Obligations.ReturnPopsTheStoredAddress : Prop :=
  ∀ s : State,
    (∀ k : Fin 16, s.sp.val = k.val + 1 → exec .ret s = .next { s with sp := s.sp - 1, pc := s.stack[k.val] }) ∧
    (s.sp.val = 0 → exec .ret s = .next { s with
      halted := true
      faultCause := .stackUnderflow
      lastResult := some (.fault (.stackUnderflow s.pc)) })

/-- 41_control_flow.md R100, R102 (D12): a CALL that completes, then a RET, resumes after the CALL with the stack pointer
as it was. -/
def Obligations.ReturnResumesAfterTheCall : Prop :=
  ∀ (nnn : BitVec 12) (s t : State), exec (.call nnn) s = .next t → t.halted = false →
    exec .ret t = .next { s with stack := t.stack, pc := s.pc + 2 }

/-- 41_control_flow.md R103 to R106: the four register skips, their encodings and their effects. That a last digit other
than 0 makes 5XYn and 9XYn unknown is the spec's D1 (DESIGN CHOICE, log 9), so the basis is derived. -/
def Obligations.SkipsFollowTheirCondition : Prop :=
  ∀ (x y : RegIdx) (nn : Byte) (s : State),
    decodeWord (wordXNN 0x3 x nn) = .ok (.seImm x nn) ∧ decodeWord (wordXNN 0x4 x nn) = .ok (.sneImm x nn) ∧
    decodeWord (wordXYN 0x5 x y 0) = .ok (.seReg x y) ∧ decodeWord (wordXYN 0x9 x y 0) = .ok (.sneReg x y) ∧
    (∀ n : BitVec 4, n ≠ 0 →
      decodeWord (wordXYN 0x5 x y n) = .error (.unknownOpcode (wordXYN 0x5 x y n)) ∧
      decodeWord (wordXYN 0x9 x y n) = .error (.unknownOpcode (wordXYN 0x9 x y n))) ∧
    exec (.seImm x nn) s = .next { s with pc := if s.v[x.val] = nn then s.pc + 4 else s.pc + 2 } ∧
    exec (.sneImm x nn) s = .next { s with pc := if s.v[x.val] ≠ nn then s.pc + 4 else s.pc + 2 } ∧
    exec (.seReg x y) s = .next { s with pc := if s.v[x.val] = s.v[y.val] then s.pc + 4 else s.pc + 2 } ∧
    exec (.sneReg x y) s = .next { s with pc := if s.v[x.val] ≠ s.v[y.val] then s.pc + 4 else s.pc + 2 }

/-- 41_control_flow.md R107 (D17): the target is the exact sum of NNN and V0, whatever register the X digit names. -/
def Obligations.IndexedJumpAddsV0 : Prop :=
  ∀ (nnn : BitVec 12) (s : State), ∃ target : Word, target.toNat = nnn.toNat + s.v[0].toNat ∧
    exec (.jpV0 nnn) s = .next { s with pc := target }

/-! ### Loads and ALU -/

/-- 42_alu.md R121 to R123: the encodings and the effects. -/
def Obligations.LoadsAndAddImmediate : Prop :=
  ∀ (x y : RegIdx) (nn : Byte) (s : State),
    decodeWord (wordXNN 0x6 x nn) = .ok (.ldImm x nn) ∧ decodeWord (wordXNN 0x7 x nn) = .ok (.addImm x nn) ∧
    decodeWord (wordXYN 0x8 x y 0x0) = .ok (.ldReg x y) ∧
    exec (.ldImm x nn) s = .next { s with v := s.v.set x.val nn x.isLt, pc := s.pc + 2 } ∧
    exec (.addImm x nn) s = .next { s with
      v := s.v.set x.val (BitVec.ofNat 8 ((s.v[x.val].toNat + nn.toNat) % 256)) x.isLt, pc := s.pc + 2 } ∧
    exec (.ldReg x y) s = .next { s with v := s.v.set x.val s.v[y.val] x.isLt, pc := s.pc + 2 }

/-- 42_alu.md R124 to R126: the encodings and the effects; VF is not touched. -/
def Obligations.BitwiseLogicLeavesTheFlag : Prop :=
  ∀ (x y : RegIdx) (s : State),
    decodeWord (wordXYN 0x8 x y 0x1) = .ok (.or x y) ∧ decodeWord (wordXYN 0x8 x y 0x2) = .ok (.and x y) ∧
    decodeWord (wordXYN 0x8 x y 0x3) = .ok (.xor x y) ∧
    exec (.or x y) s = .next { s with v := s.v.set x.val (s.v[x.val] ||| s.v[y.val]) x.isLt, pc := s.pc + 2 } ∧
    exec (.and x y) s = .next { s with v := s.v.set x.val (s.v[x.val] &&& s.v[y.val]) x.isLt, pc := s.pc + 2 } ∧
    exec (.xor x y) s = .next { s with v := s.v.set x.val (s.v[x.val] ^^^ s.v[y.val]) x.isLt, pc := s.pc + 2 }

/-- 42_alu.md R127: the encoding; VF is the carry of the old values, written first; the sum is taken from the register file
as it then stands. -/
def Obligations.AddWritesCarryThenSum : Prop :=
  ∀ (x y : RegIdx) (s : State) (w : Regs),
    w = s.v.set 15 (if 255 < s.v[x.val].toNat + s.v[y.val].toNat then 1 else 0) →
    decodeWord (wordXYN 0x8 x y 0x4) = .ok (.addReg x y) ∧
    exec (.addReg x y) s = .next { s with
      v := w.set x.val (BitVec.ofNat 8 ((w[x.val].toNat + w[y.val].toNat) % 256)) x.isLt, pc := s.pc + 2 }

/-- 42_alu.md R128, R130: VF is the inverted borrow of the old values, then the difference mod 256. That VF is written
first is the spec's D2. -/
def Obligations.SubtractsWriteInvertedBorrowThenDifference : Prop :=
  ∀ (x y : RegIdx) (s : State),
    (∀ w : Regs, w = s.v.set 15 (if s.v[y.val].toNat > s.v[x.val].toNat then 0 else 1) →
      exec (.sub x y) s = .next { s with
        v := w.set x.val (BitVec.ofNat 8 ((256 + w[x.val].toNat - w[y.val].toNat) % 256)) x.isLt
        pc := s.pc + 2 }) ∧
    (∀ w : Regs, w = s.v.set 15 (if s.v[x.val].toNat > s.v[y.val].toNat then 0 else 1) →
      exec (.subn x y) s = .next { s with
        v := w.set x.val (BitVec.ofNat 8 ((256 + w[y.val].toNat - w[x.val].toNat) % 256)) x.isLt
        pc := s.pc + 2 })

/-- 42_alu.md R129, R131: the encodings, for any Y; VF is the bit moved out, then VX is shifted by one; the Y digit plays no
part. -/
def Obligations.ShiftsWriteTheBitMovedOutThenShift : Prop :=
  ∀ (x y : RegIdx) (s : State),
    decodeWord (wordXYN 0x8 x y 0x6) = .ok (.shr x y) ∧ decodeWord (wordXYN 0x8 x y 0xE) = .ok (.shl x y) ∧
    (∀ w : Regs, w = s.v.set 15 (BitVec.ofNat 8 (s.v[x.val].toNat % 2)) →
      exec (.shr x y) s = .next { s with
        v := w.set x.val (BitVec.ofNat 8 (w[x.val].toNat / 2)) x.isLt, pc := s.pc + 2 }) ∧
    (∀ w : Regs, w = s.v.set 15 (if 128 ≤ s.v[x.val].toNat then 1 else 0) →
      exec (.shl x y) s = .next { s with
        v := w.set x.val (BitVec.ofNat 8 (2 * w[x.val].toNat % 256)) x.isLt, pc := s.pc + 2 })

/-! ### Index register and memory -/

/-- 43_index_memory.md R140: the encoding and the effect. -/
def Obligations.LoadIndexSetsI : Prop :=
  ∀ (nnn : BitVec 12) (s : State), decodeWord (wordNNN 0xA nnn) = .ok (.ldI nnn) ∧
    exec (.ldI nnn) s = .next { s with i := nnn.zeroExtend 16, pc := s.pc + 2 }

/-- 43_index_memory.md R141: the range flag of the exact old sum, then the sum mod 65536 with VX as it then stands. That
the flag is written first is the spec's D2. -/
def Obligations.AddToIndexWritesRangeFlagThenSum : Prop :=
  ∀ (x : RegIdx) (s : State) (w : Regs),
    w = s.v.set 15 (if 0xFFF < s.i.toNat + s.v[x.val].toNat then 1 else 0) →
    exec (.addIVx x) s = .next { s with
      v := w, i := BitVec.ofNat 16 ((s.i.toNat + w[x.val].toNat) % 65536), pc := s.pc + 2 }

/-- 43_index_memory.md R142 (D10 for VX above 15): the glyph address is five times the whole byte. -/
def Obligations.GlyphAddressIsFiveTimesVx : Prop :=
  ∀ (x : RegIdx) (s : State), ∃ a : Word, a.toNat = s.v[x.val].toNat * 5 ∧
    exec (.ldFVx x) s = .next { s with i := a, pc := s.pc + 2 }

/-- 43_index_memory.md R143 in range: the three digits are stored at I, I + 1 and I + 2, every other byte reads as before,
and nothing else changes but `pc`. The range condition is the spec's D26. -/
def Obligations.StoreDigitsWritesThreeBytes : Prop :=
  ∀ (x : RegIdx) (s : State), Memory.wf s.params.font s.mem → s.i.toNat + 2 ≤ 0xFFF →
    ∃ t, exec (.ldBVx x) s = .next t ∧
      (t.peek s.i.toNat).toNat = s.v[x.val].toNat / 100 ∧
      (t.peek (s.i.toNat + 1)).toNat = s.v[x.val].toNat / 10 % 10 ∧
      (t.peek (s.i.toNat + 2)).toNat = s.v[x.val].toNat % 10 ∧
      (∀ a : Nat, a < s.i.toNat ∨ s.i.toNat + 2 < a → t.peek a = s.peek a) ∧
      t = { s with mem := t.mem, pc := s.pc + 2 }

/-- 43_index_memory.md R144 in range: V0 to VX are stored at I to I + X, every other byte reads as before, `I` moves past
them, and nothing else changes but `pc`. The range condition is the spec's D26, the width of `I` its D11. -/
def Obligations.StoreRegistersWritesTheBlock : Prop :=
  ∀ (x : RegIdx) (s : State), Memory.wf s.params.font s.mem → s.i.toNat + x.val ≤ 0xFFF →
    ∃ t, exec (.stRegs x) s = .next t ∧
      (∀ k : RegIdx, k ≤ x → t.peek (s.i.toNat + k.val) = s.v[k.val]) ∧
      (∀ a : Nat, a < s.i.toNat ∨ s.i.toNat + x.val < a → t.peek a = s.peek a) ∧
      t.i.toNat = s.i.toNat + x.val + 1 ∧ t = { s with mem := t.mem, i := t.i, pc := s.pc + 2 }

/-- 43_index_memory.md R145 in range: V0 to VX are loaded from I to I + X, the registers above VX keep their values, `I`
moves past the block, and nothing else changes but `pc`. The range condition is the spec's D26. -/
def Obligations.LoadRegistersReadsTheBlock : Prop :=
  ∀ (x : RegIdx) (s : State), s.i.toNat + x.val ≤ 0xFFF →
    ∃ t, exec (.ldRegs x) s = .next t ∧
      (∀ k : RegIdx, k ≤ x → t.v[k.val] = s.peek (s.i.toNat + k.val)) ∧
      (∀ k : RegIdx, x < k → t.v[k.val] = s.v[k.val]) ∧
      t.i.toNat = s.i.toNat + x.val + 1 ∧ t = { s with v := t.v, i := t.i, pc := s.pc + 2 }

/-- The source's "FX55 followed by FX65 round-trips register contents through memory for any X" (43_index_memory.md
R145): FX65 from the same `I` over the memory FX55 left loads the same V0 to VX, whatever the registers hold. -/
def Obligations.StoreThenLoadRoundTripsRegisters : Prop :=
  ∀ (x : RegIdx) (s t u : State), Memory.wf s.params.font s.mem → exec (.stRegs x) s = .next t →
    t.halted = false → u.mem = t.mem → u.params = t.params → u.i = s.i →
    ∃ w, exec (.ldRegs x) u = .next w ∧ ∀ k : RegIdx, k ≤ x → w.v[k.val] = s.v[k.val]

/-- 60_exceptions.md R214 (D14, D26): FX33, FX55, FX65 and DXYN whose last byte lies above 0xFFF fault before anything
changes and report the lowest out-of-range address. -/
def Obligations.BlockAccessOutOfRangeFaults : Prop :=
  ∀ (x y : RegIdx) (n : BitVec 4) (s t : State),
    t = { s with
      halted := true
      faultCause := .memoryOutOfBounds
      lastResult := some (.fault (.memoryOutOfBounds (max s.i.toNat 0x1000))) } →
    (0xFFF < s.i.toNat + 2 → exec (.ldBVx x) s = .next t) ∧
    (0xFFF < s.i.toNat + x.val → exec (.stRegs x) s = .next t ∧ exec (.ldRegs x) s = .next t) ∧
    (0 < n.toNat → 0xFFF < s.i.toNat + n.toNat - 1 → exec (.drw x y n) s = .next t)

/-- 20_memory.md R52: the bytes FX55 stores are what the next fetch at that address reads. -/
def Obligations.FetchSeesWhatWasStored : Prop :=
  ∀ (x : RegIdx) (s t : State), Memory.wf s.params.font s.mem → 1 ≤ x.val → exec (.stRegs x) s = .next t →
    t.halted = false → State.fetch { t with pc := s.i } = .ok (wordOfBytes s.v[0] s.v[1])

/-! ### Random -/

/-- 44_random.md R160 to R162: one draw per execution, masked by NN, no bit set that NN lacks. The draw of the free source
is the free value (log 4), for every value of it; the draw of the reference source is the low byte after eight steps of the
generator of R162, whose algorithm is the spec's D19. -/
def Obligations.RandomByteIsDrawnOnceAndMasked : Prop :=
  ∀ (x : RegIdx) (nn : Byte) (s : State), ∃ (r : Byte) (next : RngState),
    s.rng.draw = (r, next) ∧ (∀ n, s.rng = .free n → r = Config.freeRandomByte n ∧ next = .free (n + 1)) ∧
    (∀ w : Word, s.rng = .reference w → ∃ a : Nat → Word, a 0 = w ∧
      (∀ k < 8, a (k + 1) = if (a k).toNat % 2 = 1 then (a k >>> 1) ^^^ 0xB400 else a k >>> 1) ∧
      r.toNat = (a 8).toNat % 256 ∧ next = .reference (a 8)) ∧
    (r &&& nn) &&& ~~~nn = 0 ∧
    exec (.rnd x nn) s = .next { s with v := s.v.set x.val (r &&& nn) x.isLt, rng := next, pc := s.pc + 2 }

/-! ### Display -/

/-- 45_display.md R170: the encoding and the effect. -/
def Obligations.ClearDisplayZeroesEveryCell : Prop :=
  decodeWord 0x00E0 = .ok .cls ∧ ∀ s : State, ∃ t, exec .cls s = .next t ∧ (∀ cx cy : Nat, t.fb.cell cx cy = false) ∧ t.redraw = true ∧
    t = { s with fb := t.fb, redraw := true, pc := s.pc + 2 }

/-- 45_display.md R171 to R174, the drawing: every cell of the display that a set sprite bit targets is flipped and no
other; VF is 1 iff one of them was lit; `redraw` is set; nothing else changes but `pc`. Latching the coordinates is
the spec's D3, the bit order its D6 (log 11), clipping its D4 (log 6), `redraw` its D5. -/
def Obligations.DrawXorsTheSprite : Prop :=
  ∀ (x y : RegIdx) (n : BitVec 4) (s : State), (n = 0 ∨ s.i.toNat + n.toNat - 1 ≤ 0xFFF) →
    (s.params.drawEdge = .clip ∨ ∀ cx cy, s.SpriteCovers x y n cx cy → cx ≤ 63 ∧ cy ≤ 31) →
    ∃ t, exec (.drw x y n) s = .next t ∧
      (∀ cx cy : Nat, cx ≤ 63 → cy ≤ 31 →
        (s.SpriteCovers x y n cx cy → t.fb.cell cx cy = !s.fb.cell cx cy) ∧
        (¬s.SpriteCovers x y n cx cy → t.fb.cell cx cy = s.fb.cell cx cy)) ∧
      ((∃ cx cy, s.SpriteCovers x y n cx cy ∧ s.fb.cell cx cy = true) → t.v[15] = 1) ∧
      ((¬∃ cx cy, s.SpriteCovers x y n cx cy ∧ s.fb.cell cx cy = true) → t.v[15] = 0) ∧
      t = { s with fb := t.fb, v := s.v.set 15 t.v[15], redraw := true, pc := s.pc + 2 }

/-- 45_display.md R173, 60_exceptions.md R233 (D4): under the policy `fault`, a set bit off the display faults before
anything changes and reports the first such cell in row-then-column order. -/
def Obligations.DrawOffTheDisplayFaultsUnderFaultPolicy : Prop :=
  ∀ (x y : RegIdx) (n : BitVec 4) (s : State), s.params.drawEdge = .fault →
    s.i.toNat + n.toNat - 1 ≤ 0xFFF → (∃ cx cy, s.SpriteCovers x y n cx cy ∧ (63 < cx ∨ 31 < cy)) →
    ∃ px py : Nat, s.SpriteCovers x y n px py ∧ (63 < px ∨ 31 < py) ∧
      (∀ cx cy, s.SpriteCovers x y n cx cy → (63 < cx ∨ 31 < cy) → py < cy ∨ py = cy ∧ px ≤ cx) ∧
      exec (.drw x y n) s = .next { s with
        halted := true
        faultCause := .displayOutOfBounds
        lastResult := some (.fault (.displayOutOfBounds px py)) }

/-- 45_display.md R171: drawing the same sprite at the same place twice restores the framebuffer, for coordinates not held
in VF. -/
def Obligations.DrawingTwiceRestoresTheDisplay : Prop :=
  ∀ (x y : RegIdx) (n : BitVec 4) (s t : State), x ≠ 15 → y ≠ 15 → exec (.drw x y n) s = .next t →
    t.halted = false → ∃ u, exec (.drw x y n) t = .next u ∧ u.halted = false ∧ u.fb = s.fb

/-! ### Keypad and timers -/

/-- 46_keypad_timers.md R190, R191: the key skips. That the low four bits of VX select the key is the spec's D9. -/
def Obligations.KeySkipsFollowTheKey : Prop :=
  ∀ (x : RegIdx) (k : Fin 16) (s : State), k.val = s.v[x.val].toNat % 16 →
    exec (.skp x) s = .next { s with pc := if s.key[k.val] = true then s.pc + 4 else s.pc + 2 } ∧
    exec (.sknp x) s = .next { s with pc := if s.key[k.val] = false then s.pc + 4 else s.pc + 2 }

/-- 46_keypad_timers.md R192: with no key down FX0A changes nothing; otherwise VX becomes the pressed key that `KEY_PICK`
chooses (D8, log 7). -/
def Obligations.WaitForKeyStallsOrTakesAKey : Prop :=
  ∀ (x : RegIdx) (s : State),
    ((∀ k : Fin 16, s.key[k.val] = false) → exec (.ldVxK x) s = .next s) ∧
    ∀ k : Fin 16, s.key[k.val] = true →
      (∀ j : Fin 16, s.key[j.val] = true →
        (s.params.keyPick = .lowest → k ≤ j) ∧ (s.params.keyPick = .highest → j ≤ k)) →
      exec (.ldVxK x) s = .next { s with v := s.v.set x.val (BitVec.ofNat 8 k.val) x.isLt, pc := s.pc + 2 }

/-- 46_keypad_timers.md R193: the encoding and the effect; a CYCLE that runs it reads DT before it counts it down. -/
def Obligations.ReadDelayTimerCopiesDt : Prop :=
  ∀ (x : RegIdx) (s : State), decodeWord (wordXNN 0xF x 0x07) = .ok (.ldVxDt x) ∧
    exec (.ldVxDt x) s = .next { s with v := s.v.set x.val s.dt x.isLt, pc := s.pc + 2 } ∧
    (s.Fetches (wordXNN 0xF x 0x07) →
      ∃ t, step s = .next t ∧ t.v[x.val] = s.dt ∧ t.dt.toNat = s.dt.toNat - 1)

/-- 46_keypad_timers.md R194, R195: the timers are set from VX, and a CYCLE that runs the instruction ends with the value
one lower (0 stays 0), the beep set when ST was set to 1. -/
def Obligations.SetTimersThenCountInTheSameCycle : Prop :=
  ∀ (x : RegIdx) (s : State),
    exec (.ldDtVx x) s = .next { s with dt := s.v[x.val], pc := s.pc + 2 } ∧
    exec (.ldStVx x) s = .next { s with st := s.v[x.val], pc := s.pc + 2 } ∧
    (s.Fetches (encodeWord (.ldDtVx x)) → ∃ t, step s = .next t ∧ t.dt.toNat = s.v[x.val].toNat - 1) ∧
    (s.Fetches (encodeWord (.ldStVx x)) → ∃ t, step s = .next t ∧ t.st.toNat = s.v[x.val].toNat - 1 ∧
      (t.beep = true ↔ s.beep = true ∨ s.v[x.val] = 1))

/-- 60_exceptions.md R226 to R228: k post-steps count each timer down by k, stopping at 0, set the beep iff ST ran out
among them, and change nothing else. -/
def Obligations.PostStepsCountTheTimersDown : Prop :=
  ∀ (s : State) (k : Nat),
    (State.postStep^[k] s).dt.toNat = s.dt.toNat - k ∧ (State.postStep^[k] s).st.toNat = s.st.toNat - k ∧
    ((State.postStep^[k] s).beep = true ↔ s.beep = true ∨ 0 < s.st.toNat ∧ s.st.toNat ≤ k) ∧
    State.postStep^[k] s = { s with
      dt := (State.postStep^[k] s).dt, st := (State.postStep^[k] s).st, beep := (State.postStep^[k] s).beep }

/-- 70_reset_and_hazards.md R253 (D27): a finished program stays finished: a step from a self-jump changes only the timers,
the beep and the report. -/
def Obligations.FinishedProgramStaysFinished : Prop :=
  ∀ s : State, s.Finished → ∃ t, step s = .next t ∧ t.Finished ∧
    t = { s with dt := t.dt, st := t.st, beep := t.beep, lastResult := some .ok }
end

