-- ==== Sys2Proof/Laws/State.lean ====
section
/-! SUPPORT. One lemma per field per state update, true by rfl: no later proof unfolds a record update. -/

namespace Sys2Proof.Machine

variable (s : State)

/-! ### Updates of Ops.lean -/

@[simp] theorem State.poke_mem (a : Nat) (b : Byte) : (s.poke a b).mem = Memory.write s.params.font a b s.mem := rfl
@[simp] theorem State.poke_v (a : Nat) (b : Byte) : (s.poke a b).v = s.v := rfl
@[simp] theorem State.poke_i (a : Nat) (b : Byte) : (s.poke a b).i = s.i := rfl
@[simp] theorem State.poke_pc (a : Nat) (b : Byte) : (s.poke a b).pc = s.pc := rfl
@[simp] theorem State.poke_stack (a : Nat) (b : Byte) : (s.poke a b).stack = s.stack := rfl
@[simp] theorem State.poke_sp (a : Nat) (b : Byte) : (s.poke a b).sp = s.sp := rfl
@[simp] theorem State.poke_dt (a : Nat) (b : Byte) : (s.poke a b).dt = s.dt := rfl
@[simp] theorem State.poke_st (a : Nat) (b : Byte) : (s.poke a b).st = s.st := rfl
@[simp] theorem State.poke_fb (a : Nat) (b : Byte) : (s.poke a b).fb = s.fb := rfl
@[simp] theorem State.poke_redraw (a : Nat) (b : Byte) : (s.poke a b).redraw = s.redraw := rfl
@[simp] theorem State.poke_key (a : Nat) (b : Byte) : (s.poke a b).key = s.key := rfl
@[simp] theorem State.poke_beep (a : Nat) (b : Byte) : (s.poke a b).beep = s.beep := rfl
@[simp] theorem State.poke_rng (a : Nat) (b : Byte) : (s.poke a b).rng = s.rng := rfl
@[simp] theorem State.poke_halted (a : Nat) (b : Byte) : (s.poke a b).halted = s.halted := rfl
@[simp] theorem State.poke_faultCause (a : Nat) (b : Byte) : (s.poke a b).faultCause = s.faultCause := rfl
@[simp] theorem State.poke_lastResult (a : Nat) (b : Byte) : (s.poke a b).lastResult = s.lastResult := rfl
@[simp] theorem State.poke_loaded (a : Nat) (b : Byte) : (s.poke a b).loaded = s.loaded := rfl
@[simp] theorem State.poke_params (a : Nat) (b : Byte) : (s.poke a b).params = s.params := rfl

@[simp] theorem State.setPc_mem (p : Word) : (s.setPc p).mem = s.mem := rfl
@[simp] theorem State.setPc_v (p : Word) : (s.setPc p).v = s.v := rfl
@[simp] theorem State.setPc_i (p : Word) : (s.setPc p).i = s.i := rfl
@[simp] theorem State.setPc_pc (p : Word) : (s.setPc p).pc = p := rfl
@[simp] theorem State.setPc_stack (p : Word) : (s.setPc p).stack = s.stack := rfl
@[simp] theorem State.setPc_sp (p : Word) : (s.setPc p).sp = s.sp := rfl
@[simp] theorem State.setPc_dt (p : Word) : (s.setPc p).dt = s.dt := rfl
@[simp] theorem State.setPc_st (p : Word) : (s.setPc p).st = s.st := rfl
@[simp] theorem State.setPc_fb (p : Word) : (s.setPc p).fb = s.fb := rfl
@[simp] theorem State.setPc_redraw (p : Word) : (s.setPc p).redraw = s.redraw := rfl
@[simp] theorem State.setPc_key (p : Word) : (s.setPc p).key = s.key := rfl
@[simp] theorem State.setPc_beep (p : Word) : (s.setPc p).beep = s.beep := rfl
@[simp] theorem State.setPc_rng (p : Word) : (s.setPc p).rng = s.rng := rfl
@[simp] theorem State.setPc_halted (p : Word) : (s.setPc p).halted = s.halted := rfl
@[simp] theorem State.setPc_faultCause (p : Word) : (s.setPc p).faultCause = s.faultCause := rfl
@[simp] theorem State.setPc_lastResult (p : Word) : (s.setPc p).lastResult = s.lastResult := rfl
@[simp] theorem State.setPc_loaded (p : Word) : (s.setPc p).loaded = s.loaded := rfl
@[simp] theorem State.setPc_params (p : Word) : (s.setPc p).params = s.params := rfl

@[simp] theorem State.advance_mem : (s.advance).mem = s.mem := rfl
@[simp] theorem State.advance_v : (s.advance).v = s.v := rfl
@[simp] theorem State.advance_i : (s.advance).i = s.i := rfl
@[simp] theorem State.advance_pc : (s.advance).pc = s.pc + 2 := rfl
@[simp] theorem State.advance_stack : (s.advance).stack = s.stack := rfl
@[simp] theorem State.advance_sp : (s.advance).sp = s.sp := rfl
@[simp] theorem State.advance_dt : (s.advance).dt = s.dt := rfl
@[simp] theorem State.advance_st : (s.advance).st = s.st := rfl
@[simp] theorem State.advance_fb : (s.advance).fb = s.fb := rfl
@[simp] theorem State.advance_redraw : (s.advance).redraw = s.redraw := rfl
@[simp] theorem State.advance_key : (s.advance).key = s.key := rfl
@[simp] theorem State.advance_beep : (s.advance).beep = s.beep := rfl
@[simp] theorem State.advance_rng : (s.advance).rng = s.rng := rfl
@[simp] theorem State.advance_halted : (s.advance).halted = s.halted := rfl
@[simp] theorem State.advance_faultCause : (s.advance).faultCause = s.faultCause := rfl
@[simp] theorem State.advance_lastResult : (s.advance).lastResult = s.lastResult := rfl
@[simp] theorem State.advance_loaded : (s.advance).loaded = s.loaded := rfl
@[simp] theorem State.advance_params : (s.advance).params = s.params := rfl

@[simp] theorem State.skipIf_mem (c : Bool) : (s.skipIf c).mem = s.mem := rfl
@[simp] theorem State.skipIf_v (c : Bool) : (s.skipIf c).v = s.v := rfl
@[simp] theorem State.skipIf_i (c : Bool) : (s.skipIf c).i = s.i := rfl
@[simp] theorem State.skipIf_pc (c : Bool) : (s.skipIf c).pc = if c then s.pc + 4 else s.pc + 2 := rfl
@[simp] theorem State.skipIf_stack (c : Bool) : (s.skipIf c).stack = s.stack := rfl
@[simp] theorem State.skipIf_sp (c : Bool) : (s.skipIf c).sp = s.sp := rfl
@[simp] theorem State.skipIf_dt (c : Bool) : (s.skipIf c).dt = s.dt := rfl
@[simp] theorem State.skipIf_st (c : Bool) : (s.skipIf c).st = s.st := rfl
@[simp] theorem State.skipIf_fb (c : Bool) : (s.skipIf c).fb = s.fb := rfl
@[simp] theorem State.skipIf_redraw (c : Bool) : (s.skipIf c).redraw = s.redraw := rfl
@[simp] theorem State.skipIf_key (c : Bool) : (s.skipIf c).key = s.key := rfl
@[simp] theorem State.skipIf_beep (c : Bool) : (s.skipIf c).beep = s.beep := rfl
@[simp] theorem State.skipIf_rng (c : Bool) : (s.skipIf c).rng = s.rng := rfl
@[simp] theorem State.skipIf_halted (c : Bool) : (s.skipIf c).halted = s.halted := rfl
@[simp] theorem State.skipIf_faultCause (c : Bool) : (s.skipIf c).faultCause = s.faultCause := rfl
@[simp] theorem State.skipIf_lastResult (c : Bool) : (s.skipIf c).lastResult = s.lastResult := rfl
@[simp] theorem State.skipIf_loaded (c : Bool) : (s.skipIf c).loaded = s.loaded := rfl
@[simp] theorem State.skipIf_params (c : Bool) : (s.skipIf c).params = s.params := rfl

@[simp] theorem State.takeFault_mem (f : Fault) : (s.takeFault f).mem = s.mem := rfl
@[simp] theorem State.takeFault_v (f : Fault) : (s.takeFault f).v = s.v := rfl
@[simp] theorem State.takeFault_i (f : Fault) : (s.takeFault f).i = s.i := rfl
@[simp] theorem State.takeFault_pc (f : Fault) : (s.takeFault f).pc = s.pc := rfl
@[simp] theorem State.takeFault_stack (f : Fault) : (s.takeFault f).stack = s.stack := rfl
@[simp] theorem State.takeFault_sp (f : Fault) : (s.takeFault f).sp = s.sp := rfl
@[simp] theorem State.takeFault_dt (f : Fault) : (s.takeFault f).dt = s.dt := rfl
@[simp] theorem State.takeFault_st (f : Fault) : (s.takeFault f).st = s.st := rfl
@[simp] theorem State.takeFault_fb (f : Fault) : (s.takeFault f).fb = s.fb := rfl
@[simp] theorem State.takeFault_redraw (f : Fault) : (s.takeFault f).redraw = s.redraw := rfl
@[simp] theorem State.takeFault_key (f : Fault) : (s.takeFault f).key = s.key := rfl
@[simp] theorem State.takeFault_beep (f : Fault) : (s.takeFault f).beep = s.beep := rfl
@[simp] theorem State.takeFault_rng (f : Fault) : (s.takeFault f).rng = s.rng := rfl
@[simp] theorem State.takeFault_halted (f : Fault) : (s.takeFault f).halted = true := rfl
@[simp] theorem State.takeFault_faultCause (f : Fault) : (s.takeFault f).faultCause = f.cause := rfl
@[simp] theorem State.takeFault_lastResult (f : Fault) : (s.takeFault f).lastResult = some (.fault f) := rfl
@[simp] theorem State.takeFault_loaded (f : Fault) : (s.takeFault f).loaded = s.loaded := rfl
@[simp] theorem State.takeFault_params (f : Fault) : (s.takeFault f).params = s.params := rfl

@[simp] theorem State.postStep_mem : (s.postStep).mem = s.mem := rfl
@[simp] theorem State.postStep_v : (s.postStep).v = s.v := rfl
@[simp] theorem State.postStep_i : (s.postStep).i = s.i := rfl
@[simp] theorem State.postStep_pc : (s.postStep).pc = s.pc := rfl
@[simp] theorem State.postStep_stack : (s.postStep).stack = s.stack := rfl
@[simp] theorem State.postStep_sp : (s.postStep).sp = s.sp := rfl
@[simp] theorem State.postStep_dt : (s.postStep).dt = countDown s.dt := rfl
@[simp] theorem State.postStep_st : (s.postStep).st = countDown s.st := rfl
@[simp] theorem State.postStep_fb : (s.postStep).fb = s.fb := rfl
@[simp] theorem State.postStep_redraw : (s.postStep).redraw = s.redraw := rfl
@[simp] theorem State.postStep_key : (s.postStep).key = s.key := rfl
@[simp] theorem State.postStep_beep : (s.postStep).beep = (s.beep || s.st == 1) := rfl
@[simp] theorem State.postStep_rng : (s.postStep).rng = s.rng := rfl
@[simp] theorem State.postStep_halted : (s.postStep).halted = s.halted := rfl
@[simp] theorem State.postStep_faultCause : (s.postStep).faultCause = s.faultCause := rfl
@[simp] theorem State.postStep_lastResult : (s.postStep).lastResult = s.lastResult := rfl
@[simp] theorem State.postStep_loaded : (s.postStep).loaded = s.loaded := rfl
@[simp] theorem State.postStep_params : (s.postStep).params = s.params := rfl

@[simp] theorem State.report_mem (r : CycleResult) : (s.report r).mem = s.mem := rfl
@[simp] theorem State.report_v (r : CycleResult) : (s.report r).v = s.v := rfl
@[simp] theorem State.report_i (r : CycleResult) : (s.report r).i = s.i := rfl
@[simp] theorem State.report_pc (r : CycleResult) : (s.report r).pc = s.pc := rfl
@[simp] theorem State.report_stack (r : CycleResult) : (s.report r).stack = s.stack := rfl
@[simp] theorem State.report_sp (r : CycleResult) : (s.report r).sp = s.sp := rfl
@[simp] theorem State.report_dt (r : CycleResult) : (s.report r).dt = s.dt := rfl
@[simp] theorem State.report_st (r : CycleResult) : (s.report r).st = s.st := rfl
@[simp] theorem State.report_fb (r : CycleResult) : (s.report r).fb = s.fb := rfl
@[simp] theorem State.report_redraw (r : CycleResult) : (s.report r).redraw = s.redraw := rfl
@[simp] theorem State.report_key (r : CycleResult) : (s.report r).key = s.key := rfl
@[simp] theorem State.report_beep (r : CycleResult) : (s.report r).beep = s.beep := rfl
@[simp] theorem State.report_rng (r : CycleResult) : (s.report r).rng = s.rng := rfl
@[simp] theorem State.report_halted (r : CycleResult) : (s.report r).halted = s.halted := rfl
@[simp] theorem State.report_faultCause (r : CycleResult) : (s.report r).faultCause = s.faultCause := rfl
@[simp] theorem State.report_lastResult (r : CycleResult) : (s.report r).lastResult = some r := rfl
@[simp] theorem State.report_loaded (r : CycleResult) : (s.report r).loaded = s.loaded := rfl
@[simp] theorem State.report_params (r : CycleResult) : (s.report r).params = s.params := rfl


/-! ### Updates of Operands.lean and Flags.lean -/

@[simp] theorem State.setV_mem (x : RegIdx) (b : Byte) : (s.setV x b).mem = s.mem := rfl
@[simp] theorem State.setV_v (x : RegIdx) (b : Byte) : (s.setV x b).v = s.v.set x.val b x.isLt := rfl
@[simp] theorem State.setV_i (x : RegIdx) (b : Byte) : (s.setV x b).i = s.i := rfl
@[simp] theorem State.setV_pc (x : RegIdx) (b : Byte) : (s.setV x b).pc = s.pc := rfl
@[simp] theorem State.setV_stack (x : RegIdx) (b : Byte) : (s.setV x b).stack = s.stack := rfl
@[simp] theorem State.setV_sp (x : RegIdx) (b : Byte) : (s.setV x b).sp = s.sp := rfl
@[simp] theorem State.setV_dt (x : RegIdx) (b : Byte) : (s.setV x b).dt = s.dt := rfl
@[simp] theorem State.setV_st (x : RegIdx) (b : Byte) : (s.setV x b).st = s.st := rfl
@[simp] theorem State.setV_fb (x : RegIdx) (b : Byte) : (s.setV x b).fb = s.fb := rfl
@[simp] theorem State.setV_redraw (x : RegIdx) (b : Byte) : (s.setV x b).redraw = s.redraw := rfl
@[simp] theorem State.setV_key (x : RegIdx) (b : Byte) : (s.setV x b).key = s.key := rfl
@[simp] theorem State.setV_beep (x : RegIdx) (b : Byte) : (s.setV x b).beep = s.beep := rfl
@[simp] theorem State.setV_rng (x : RegIdx) (b : Byte) : (s.setV x b).rng = s.rng := rfl
@[simp] theorem State.setV_halted (x : RegIdx) (b : Byte) : (s.setV x b).halted = s.halted := rfl
@[simp] theorem State.setV_faultCause (x : RegIdx) (b : Byte) : (s.setV x b).faultCause = s.faultCause := rfl
@[simp] theorem State.setV_lastResult (x : RegIdx) (b : Byte) : (s.setV x b).lastResult = s.lastResult := rfl
@[simp] theorem State.setV_loaded (x : RegIdx) (b : Byte) : (s.setV x b).loaded = s.loaded := rfl
@[simp] theorem State.setV_params (x : RegIdx) (b : Byte) : (s.setV x b).params = s.params := rfl

@[simp] theorem State.setI_mem (w : Word) : (s.setI w).mem = s.mem := rfl
@[simp] theorem State.setI_v (w : Word) : (s.setI w).v = s.v := rfl
@[simp] theorem State.setI_i (w : Word) : (s.setI w).i = w := rfl
@[simp] theorem State.setI_pc (w : Word) : (s.setI w).pc = s.pc := rfl
@[simp] theorem State.setI_stack (w : Word) : (s.setI w).stack = s.stack := rfl
@[simp] theorem State.setI_sp (w : Word) : (s.setI w).sp = s.sp := rfl
@[simp] theorem State.setI_dt (w : Word) : (s.setI w).dt = s.dt := rfl
@[simp] theorem State.setI_st (w : Word) : (s.setI w).st = s.st := rfl
@[simp] theorem State.setI_fb (w : Word) : (s.setI w).fb = s.fb := rfl
@[simp] theorem State.setI_redraw (w : Word) : (s.setI w).redraw = s.redraw := rfl
@[simp] theorem State.setI_key (w : Word) : (s.setI w).key = s.key := rfl
@[simp] theorem State.setI_beep (w : Word) : (s.setI w).beep = s.beep := rfl
@[simp] theorem State.setI_rng (w : Word) : (s.setI w).rng = s.rng := rfl
@[simp] theorem State.setI_halted (w : Word) : (s.setI w).halted = s.halted := rfl
@[simp] theorem State.setI_faultCause (w : Word) : (s.setI w).faultCause = s.faultCause := rfl
@[simp] theorem State.setI_lastResult (w : Word) : (s.setI w).lastResult = s.lastResult := rfl
@[simp] theorem State.setI_loaded (w : Word) : (s.setI w).loaded = s.loaded := rfl
@[simp] theorem State.setI_params (w : Word) : (s.setI w).params = s.params := rfl

@[simp] theorem State.loadRegBlock_mem (bytes : List Byte) : (s.loadRegBlock bytes).mem = s.mem := rfl
@[simp] theorem State.loadRegBlock_v (bytes : List Byte) :
    (s.loadRegBlock bytes).v = Vector.ofFn fun k => bytes.getD k.val s.v[k.val] := rfl
@[simp] theorem State.loadRegBlock_i (bytes : List Byte) : (s.loadRegBlock bytes).i = s.i := rfl
@[simp] theorem State.loadRegBlock_pc (bytes : List Byte) : (s.loadRegBlock bytes).pc = s.pc := rfl
@[simp] theorem State.loadRegBlock_stack (bytes : List Byte) : (s.loadRegBlock bytes).stack = s.stack := rfl
@[simp] theorem State.loadRegBlock_sp (bytes : List Byte) : (s.loadRegBlock bytes).sp = s.sp := rfl
@[simp] theorem State.loadRegBlock_dt (bytes : List Byte) : (s.loadRegBlock bytes).dt = s.dt := rfl
@[simp] theorem State.loadRegBlock_st (bytes : List Byte) : (s.loadRegBlock bytes).st = s.st := rfl
@[simp] theorem State.loadRegBlock_fb (bytes : List Byte) : (s.loadRegBlock bytes).fb = s.fb := rfl
@[simp] theorem State.loadRegBlock_redraw (bytes : List Byte) : (s.loadRegBlock bytes).redraw = s.redraw := rfl
@[simp] theorem State.loadRegBlock_key (bytes : List Byte) : (s.loadRegBlock bytes).key = s.key := rfl
@[simp] theorem State.loadRegBlock_beep (bytes : List Byte) : (s.loadRegBlock bytes).beep = s.beep := rfl
@[simp] theorem State.loadRegBlock_rng (bytes : List Byte) : (s.loadRegBlock bytes).rng = s.rng := rfl
@[simp] theorem State.loadRegBlock_halted (bytes : List Byte) : (s.loadRegBlock bytes).halted = s.halted := rfl
@[simp] theorem State.loadRegBlock_faultCause (bytes : List Byte) :
    (s.loadRegBlock bytes).faultCause = s.faultCause := rfl
@[simp] theorem State.loadRegBlock_lastResult (bytes : List Byte) :
    (s.loadRegBlock bytes).lastResult = s.lastResult := rfl
@[simp] theorem State.loadRegBlock_loaded (bytes : List Byte) : (s.loadRegBlock bytes).loaded = s.loaded := rfl
@[simp] theorem State.loadRegBlock_params (bytes : List Byte) : (s.loadRegBlock bytes).params = s.params := rfl

@[simp] theorem State.bumpI_mem (x : RegIdx) : (s.bumpI x).mem = s.mem := rfl
@[simp] theorem State.bumpI_v (x : RegIdx) : (s.bumpI x).v = s.v := rfl
@[simp] theorem State.bumpI_i (x : RegIdx) : (s.bumpI x).i = s.i + BitVec.ofNat 16 (x.val + 1) := rfl
@[simp] theorem State.bumpI_pc (x : RegIdx) : (s.bumpI x).pc = s.pc := rfl
@[simp] theorem State.bumpI_stack (x : RegIdx) : (s.bumpI x).stack = s.stack := rfl
@[simp] theorem State.bumpI_sp (x : RegIdx) : (s.bumpI x).sp = s.sp := rfl
@[simp] theorem State.bumpI_dt (x : RegIdx) : (s.bumpI x).dt = s.dt := rfl
@[simp] theorem State.bumpI_st (x : RegIdx) : (s.bumpI x).st = s.st := rfl
@[simp] theorem State.bumpI_fb (x : RegIdx) : (s.bumpI x).fb = s.fb := rfl
@[simp] theorem State.bumpI_redraw (x : RegIdx) : (s.bumpI x).redraw = s.redraw := rfl
@[simp] theorem State.bumpI_key (x : RegIdx) : (s.bumpI x).key = s.key := rfl
@[simp] theorem State.bumpI_beep (x : RegIdx) : (s.bumpI x).beep = s.beep := rfl
@[simp] theorem State.bumpI_rng (x : RegIdx) : (s.bumpI x).rng = s.rng := rfl
@[simp] theorem State.bumpI_halted (x : RegIdx) : (s.bumpI x).halted = s.halted := rfl
@[simp] theorem State.bumpI_faultCause (x : RegIdx) : (s.bumpI x).faultCause = s.faultCause := rfl
@[simp] theorem State.bumpI_lastResult (x : RegIdx) : (s.bumpI x).lastResult = s.lastResult := rfl
@[simp] theorem State.bumpI_loaded (x : RegIdx) : (s.bumpI x).loaded = s.loaded := rfl
@[simp] theorem State.bumpI_params (x : RegIdx) : (s.bumpI x).params = s.params := rfl

@[simp] theorem State.setFlag_mem (c : Bool) : (s.setFlag c).mem = s.mem := rfl
@[simp] theorem State.setFlag_v (c : Bool) : (s.setFlag c).v = s.v.set 15 (flagByte c) := rfl
@[simp] theorem State.setFlag_i (c : Bool) : (s.setFlag c).i = s.i := rfl
@[simp] theorem State.setFlag_pc (c : Bool) : (s.setFlag c).pc = s.pc := rfl
@[simp] theorem State.setFlag_stack (c : Bool) : (s.setFlag c).stack = s.stack := rfl
@[simp] theorem State.setFlag_sp (c : Bool) : (s.setFlag c).sp = s.sp := rfl
@[simp] theorem State.setFlag_dt (c : Bool) : (s.setFlag c).dt = s.dt := rfl
@[simp] theorem State.setFlag_st (c : Bool) : (s.setFlag c).st = s.st := rfl
@[simp] theorem State.setFlag_fb (c : Bool) : (s.setFlag c).fb = s.fb := rfl
@[simp] theorem State.setFlag_redraw (c : Bool) : (s.setFlag c).redraw = s.redraw := rfl
@[simp] theorem State.setFlag_key (c : Bool) : (s.setFlag c).key = s.key := rfl
@[simp] theorem State.setFlag_beep (c : Bool) : (s.setFlag c).beep = s.beep := rfl
@[simp] theorem State.setFlag_rng (c : Bool) : (s.setFlag c).rng = s.rng := rfl
@[simp] theorem State.setFlag_halted (c : Bool) : (s.setFlag c).halted = s.halted := rfl
@[simp] theorem State.setFlag_faultCause (c : Bool) : (s.setFlag c).faultCause = s.faultCause := rfl
@[simp] theorem State.setFlag_lastResult (c : Bool) : (s.setFlag c).lastResult = s.lastResult := rfl
@[simp] theorem State.setFlag_loaded (c : Bool) : (s.setFlag c).loaded = s.loaded := rfl
@[simp] theorem State.setFlag_params (c : Bool) : (s.setFlag c).params = s.params := rfl

@[simp] theorem State.flagThen_mem (c : Bool) (x : RegIdx) (result : State → Byte) :
    (s.flagThen c x result).mem = s.mem := rfl
@[simp] theorem State.flagThen_v (c : Bool) (x : RegIdx) (result : State → Byte) :
    (s.flagThen c x result).v = (s.v.set 15 (flagByte c)).set x.val (result (s.setFlag c)) x.isLt := rfl
@[simp] theorem State.flagThen_i (c : Bool) (x : RegIdx) (result : State → Byte) :
    (s.flagThen c x result).i = s.i := rfl
@[simp] theorem State.flagThen_pc (c : Bool) (x : RegIdx) (result : State → Byte) :
    (s.flagThen c x result).pc = s.pc := rfl
@[simp] theorem State.flagThen_stack (c : Bool) (x : RegIdx) (result : State → Byte) :
    (s.flagThen c x result).stack = s.stack := rfl
@[simp] theorem State.flagThen_sp (c : Bool) (x : RegIdx) (result : State → Byte) :
    (s.flagThen c x result).sp = s.sp := rfl
@[simp] theorem State.flagThen_dt (c : Bool) (x : RegIdx) (result : State → Byte) :
    (s.flagThen c x result).dt = s.dt := rfl
@[simp] theorem State.flagThen_st (c : Bool) (x : RegIdx) (result : State → Byte) :
    (s.flagThen c x result).st = s.st := rfl
@[simp] theorem State.flagThen_fb (c : Bool) (x : RegIdx) (result : State → Byte) :
    (s.flagThen c x result).fb = s.fb := rfl
@[simp] theorem State.flagThen_redraw (c : Bool) (x : RegIdx) (result : State → Byte) :
    (s.flagThen c x result).redraw = s.redraw := rfl
@[simp] theorem State.flagThen_key (c : Bool) (x : RegIdx) (result : State → Byte) :
    (s.flagThen c x result).key = s.key := rfl
@[simp] theorem State.flagThen_beep (c : Bool) (x : RegIdx) (result : State → Byte) :
    (s.flagThen c x result).beep = s.beep := rfl
@[simp] theorem State.flagThen_rng (c : Bool) (x : RegIdx) (result : State → Byte) :
    (s.flagThen c x result).rng = s.rng := rfl
@[simp] theorem State.flagThen_halted (c : Bool) (x : RegIdx) (result : State → Byte) :
    (s.flagThen c x result).halted = s.halted := rfl
@[simp] theorem State.flagThen_faultCause (c : Bool) (x : RegIdx) (result : State → Byte) :
    (s.flagThen c x result).faultCause = s.faultCause := rfl
@[simp] theorem State.flagThen_lastResult (c : Bool) (x : RegIdx) (result : State → Byte) :
    (s.flagThen c x result).lastResult = s.lastResult := rfl
@[simp] theorem State.flagThen_loaded (c : Bool) (x : RegIdx) (result : State → Byte) :
    (s.flagThen c x result).loaded = s.loaded := rfl
@[simp] theorem State.flagThen_params (c : Bool) (x : RegIdx) (result : State → Byte) :
    (s.flagThen c x result).params = s.params := rfl


/-! ### Updates of the family files -/

@[simp] theorem State.addToI_mem (x : RegIdx) : (s.addToI x).mem = s.mem := rfl
@[simp] theorem State.addToI_v (x : RegIdx) : (s.addToI x).v = s.v := rfl
@[simp] theorem State.addToI_i (x : RegIdx) : (s.addToI x).i = s.i + zextByte (s.readV x) := rfl
@[simp] theorem State.addToI_pc (x : RegIdx) : (s.addToI x).pc = s.pc := rfl
@[simp] theorem State.addToI_stack (x : RegIdx) : (s.addToI x).stack = s.stack := rfl
@[simp] theorem State.addToI_sp (x : RegIdx) : (s.addToI x).sp = s.sp := rfl
@[simp] theorem State.addToI_dt (x : RegIdx) : (s.addToI x).dt = s.dt := rfl
@[simp] theorem State.addToI_st (x : RegIdx) : (s.addToI x).st = s.st := rfl
@[simp] theorem State.addToI_fb (x : RegIdx) : (s.addToI x).fb = s.fb := rfl
@[simp] theorem State.addToI_redraw (x : RegIdx) : (s.addToI x).redraw = s.redraw := rfl
@[simp] theorem State.addToI_key (x : RegIdx) : (s.addToI x).key = s.key := rfl
@[simp] theorem State.addToI_beep (x : RegIdx) : (s.addToI x).beep = s.beep := rfl
@[simp] theorem State.addToI_rng (x : RegIdx) : (s.addToI x).rng = s.rng := rfl
@[simp] theorem State.addToI_halted (x : RegIdx) : (s.addToI x).halted = s.halted := rfl
@[simp] theorem State.addToI_faultCause (x : RegIdx) : (s.addToI x).faultCause = s.faultCause := rfl
@[simp] theorem State.addToI_lastResult (x : RegIdx) : (s.addToI x).lastResult = s.lastResult := rfl
@[simp] theorem State.addToI_loaded (x : RegIdx) : (s.addToI x).loaded = s.loaded := rfl
@[simp] theorem State.addToI_params (x : RegIdx) : (s.addToI x).params = s.params := rfl

@[simp] theorem State.stepRng_mem : (s.stepRng).mem = s.mem := rfl
@[simp] theorem State.stepRng_v : (s.stepRng).v = s.v := rfl
@[simp] theorem State.stepRng_i : (s.stepRng).i = s.i := rfl
@[simp] theorem State.stepRng_pc : (s.stepRng).pc = s.pc := rfl
@[simp] theorem State.stepRng_stack : (s.stepRng).stack = s.stack := rfl
@[simp] theorem State.stepRng_sp : (s.stepRng).sp = s.sp := rfl
@[simp] theorem State.stepRng_dt : (s.stepRng).dt = s.dt := rfl
@[simp] theorem State.stepRng_st : (s.stepRng).st = s.st := rfl
@[simp] theorem State.stepRng_fb : (s.stepRng).fb = s.fb := rfl
@[simp] theorem State.stepRng_redraw : (s.stepRng).redraw = s.redraw := rfl
@[simp] theorem State.stepRng_key : (s.stepRng).key = s.key := rfl
@[simp] theorem State.stepRng_beep : (s.stepRng).beep = s.beep := rfl
@[simp] theorem State.stepRng_rng : (s.stepRng).rng = s.rng.draw.2 := rfl
@[simp] theorem State.stepRng_halted : (s.stepRng).halted = s.halted := rfl
@[simp] theorem State.stepRng_faultCause : (s.stepRng).faultCause = s.faultCause := rfl
@[simp] theorem State.stepRng_lastResult : (s.stepRng).lastResult = s.lastResult := rfl
@[simp] theorem State.stepRng_loaded : (s.stepRng).loaded = s.loaded := rfl
@[simp] theorem State.stepRng_params : (s.stepRng).params = s.params := rfl

@[simp] theorem State.drawSprite_mem (ts : List (Nat × Nat)) : (s.drawSprite ts).mem = s.mem := rfl
@[simp] theorem State.drawSprite_v (ts : List (Nat × Nat)) :
    (s.drawSprite ts).v = s.v.set 15 (flagByte (drawTargets s.fb ts).2) := rfl
@[simp] theorem State.drawSprite_i (ts : List (Nat × Nat)) : (s.drawSprite ts).i = s.i := rfl
@[simp] theorem State.drawSprite_pc (ts : List (Nat × Nat)) : (s.drawSprite ts).pc = s.pc := rfl
@[simp] theorem State.drawSprite_stack (ts : List (Nat × Nat)) : (s.drawSprite ts).stack = s.stack := rfl
@[simp] theorem State.drawSprite_sp (ts : List (Nat × Nat)) : (s.drawSprite ts).sp = s.sp := rfl
@[simp] theorem State.drawSprite_dt (ts : List (Nat × Nat)) : (s.drawSprite ts).dt = s.dt := rfl
@[simp] theorem State.drawSprite_st (ts : List (Nat × Nat)) : (s.drawSprite ts).st = s.st := rfl
@[simp] theorem State.drawSprite_fb (ts : List (Nat × Nat)) : (s.drawSprite ts).fb = (drawTargets s.fb ts).1 := rfl
@[simp] theorem State.drawSprite_redraw (ts : List (Nat × Nat)) : (s.drawSprite ts).redraw = true := rfl
@[simp] theorem State.drawSprite_key (ts : List (Nat × Nat)) : (s.drawSprite ts).key = s.key := rfl
@[simp] theorem State.drawSprite_beep (ts : List (Nat × Nat)) : (s.drawSprite ts).beep = s.beep := rfl
@[simp] theorem State.drawSprite_rng (ts : List (Nat × Nat)) : (s.drawSprite ts).rng = s.rng := rfl
@[simp] theorem State.drawSprite_halted (ts : List (Nat × Nat)) : (s.drawSprite ts).halted = s.halted := rfl
@[simp] theorem State.drawSprite_faultCause (ts : List (Nat × Nat)) :
    (s.drawSprite ts).faultCause = s.faultCause := rfl
@[simp] theorem State.drawSprite_lastResult (ts : List (Nat × Nat)) :
    (s.drawSprite ts).lastResult = s.lastResult := rfl
@[simp] theorem State.drawSprite_loaded (ts : List (Nat × Nat)) : (s.drawSprite ts).loaded = s.loaded := rfl
@[simp] theorem State.drawSprite_params (ts : List (Nat × Nat)) : (s.drawSprite ts).params = s.params := rfl

@[simp] theorem State.clearDisplay_mem : (s.clearDisplay).mem = s.mem := rfl
@[simp] theorem State.clearDisplay_v : (s.clearDisplay).v = s.v := rfl
@[simp] theorem State.clearDisplay_i : (s.clearDisplay).i = s.i := rfl
@[simp] theorem State.clearDisplay_pc : (s.clearDisplay).pc = s.pc := rfl
@[simp] theorem State.clearDisplay_stack : (s.clearDisplay).stack = s.stack := rfl
@[simp] theorem State.clearDisplay_sp : (s.clearDisplay).sp = s.sp := rfl
@[simp] theorem State.clearDisplay_dt : (s.clearDisplay).dt = s.dt := rfl
@[simp] theorem State.clearDisplay_st : (s.clearDisplay).st = s.st := rfl
@[simp] theorem State.clearDisplay_fb : (s.clearDisplay).fb = Vector.replicate 32 0 := rfl
@[simp] theorem State.clearDisplay_redraw : (s.clearDisplay).redraw = true := rfl
@[simp] theorem State.clearDisplay_key : (s.clearDisplay).key = s.key := rfl
@[simp] theorem State.clearDisplay_beep : (s.clearDisplay).beep = s.beep := rfl
@[simp] theorem State.clearDisplay_rng : (s.clearDisplay).rng = s.rng := rfl
@[simp] theorem State.clearDisplay_halted : (s.clearDisplay).halted = s.halted := rfl
@[simp] theorem State.clearDisplay_faultCause : (s.clearDisplay).faultCause = s.faultCause := rfl
@[simp] theorem State.clearDisplay_lastResult : (s.clearDisplay).lastResult = s.lastResult := rfl
@[simp] theorem State.clearDisplay_loaded : (s.clearDisplay).loaded = s.loaded := rfl
@[simp] theorem State.clearDisplay_params : (s.clearDisplay).params = s.params := rfl

@[simp] theorem State.setDt_mem (b : Byte) : (s.setDt b).mem = s.mem := rfl
@[simp] theorem State.setDt_v (b : Byte) : (s.setDt b).v = s.v := rfl
@[simp] theorem State.setDt_i (b : Byte) : (s.setDt b).i = s.i := rfl
@[simp] theorem State.setDt_pc (b : Byte) : (s.setDt b).pc = s.pc := rfl
@[simp] theorem State.setDt_stack (b : Byte) : (s.setDt b).stack = s.stack := rfl
@[simp] theorem State.setDt_sp (b : Byte) : (s.setDt b).sp = s.sp := rfl
@[simp] theorem State.setDt_dt (b : Byte) : (s.setDt b).dt = b := rfl
@[simp] theorem State.setDt_st (b : Byte) : (s.setDt b).st = s.st := rfl
@[simp] theorem State.setDt_fb (b : Byte) : (s.setDt b).fb = s.fb := rfl
@[simp] theorem State.setDt_redraw (b : Byte) : (s.setDt b).redraw = s.redraw := rfl
@[simp] theorem State.setDt_key (b : Byte) : (s.setDt b).key = s.key := rfl
@[simp] theorem State.setDt_beep (b : Byte) : (s.setDt b).beep = s.beep := rfl
@[simp] theorem State.setDt_rng (b : Byte) : (s.setDt b).rng = s.rng := rfl
@[simp] theorem State.setDt_halted (b : Byte) : (s.setDt b).halted = s.halted := rfl
@[simp] theorem State.setDt_faultCause (b : Byte) : (s.setDt b).faultCause = s.faultCause := rfl
@[simp] theorem State.setDt_lastResult (b : Byte) : (s.setDt b).lastResult = s.lastResult := rfl
@[simp] theorem State.setDt_loaded (b : Byte) : (s.setDt b).loaded = s.loaded := rfl
@[simp] theorem State.setDt_params (b : Byte) : (s.setDt b).params = s.params := rfl

@[simp] theorem State.setSt_mem (b : Byte) : (s.setSt b).mem = s.mem := rfl
@[simp] theorem State.setSt_v (b : Byte) : (s.setSt b).v = s.v := rfl
@[simp] theorem State.setSt_i (b : Byte) : (s.setSt b).i = s.i := rfl
@[simp] theorem State.setSt_pc (b : Byte) : (s.setSt b).pc = s.pc := rfl
@[simp] theorem State.setSt_stack (b : Byte) : (s.setSt b).stack = s.stack := rfl
@[simp] theorem State.setSt_sp (b : Byte) : (s.setSt b).sp = s.sp := rfl
@[simp] theorem State.setSt_dt (b : Byte) : (s.setSt b).dt = s.dt := rfl
@[simp] theorem State.setSt_st (b : Byte) : (s.setSt b).st = b := rfl
@[simp] theorem State.setSt_fb (b : Byte) : (s.setSt b).fb = s.fb := rfl
@[simp] theorem State.setSt_redraw (b : Byte) : (s.setSt b).redraw = s.redraw := rfl
@[simp] theorem State.setSt_key (b : Byte) : (s.setSt b).key = s.key := rfl
@[simp] theorem State.setSt_beep (b : Byte) : (s.setSt b).beep = s.beep := rfl
@[simp] theorem State.setSt_rng (b : Byte) : (s.setSt b).rng = s.rng := rfl
@[simp] theorem State.setSt_halted (b : Byte) : (s.setSt b).halted = s.halted := rfl
@[simp] theorem State.setSt_faultCause (b : Byte) : (s.setSt b).faultCause = s.faultCause := rfl
@[simp] theorem State.setSt_lastResult (b : Byte) : (s.setSt b).lastResult = s.lastResult := rfl
@[simp] theorem State.setSt_loaded (b : Byte) : (s.setSt b).loaded = s.loaded := rfl
@[simp] theorem State.setSt_params (b : Byte) : (s.setSt b).params = s.params := rfl


/-! ### Updates of HostOps.lean -/

@[simp] theorem State.setKey_mem (k : Fin 16) (down : Bool) : (s.setKey k down).mem = s.mem := rfl
@[simp] theorem State.setKey_v (k : Fin 16) (down : Bool) : (s.setKey k down).v = s.v := rfl
@[simp] theorem State.setKey_i (k : Fin 16) (down : Bool) : (s.setKey k down).i = s.i := rfl
@[simp] theorem State.setKey_pc (k : Fin 16) (down : Bool) : (s.setKey k down).pc = s.pc := rfl
@[simp] theorem State.setKey_stack (k : Fin 16) (down : Bool) : (s.setKey k down).stack = s.stack := rfl
@[simp] theorem State.setKey_sp (k : Fin 16) (down : Bool) : (s.setKey k down).sp = s.sp := rfl
@[simp] theorem State.setKey_dt (k : Fin 16) (down : Bool) : (s.setKey k down).dt = s.dt := rfl
@[simp] theorem State.setKey_st (k : Fin 16) (down : Bool) : (s.setKey k down).st = s.st := rfl
@[simp] theorem State.setKey_fb (k : Fin 16) (down : Bool) : (s.setKey k down).fb = s.fb := rfl
@[simp] theorem State.setKey_redraw (k : Fin 16) (down : Bool) : (s.setKey k down).redraw = s.redraw := rfl
@[simp] theorem State.setKey_key (k : Fin 16) (down : Bool) :
    (s.setKey k down).key = s.key.set k.val down k.isLt := rfl
@[simp] theorem State.setKey_beep (k : Fin 16) (down : Bool) : (s.setKey k down).beep = s.beep := rfl
@[simp] theorem State.setKey_rng (k : Fin 16) (down : Bool) : (s.setKey k down).rng = s.rng := rfl
@[simp] theorem State.setKey_halted (k : Fin 16) (down : Bool) : (s.setKey k down).halted = s.halted := rfl
@[simp] theorem State.setKey_faultCause (k : Fin 16) (down : Bool) :
    (s.setKey k down).faultCause = s.faultCause := rfl
@[simp] theorem State.setKey_lastResult (k : Fin 16) (down : Bool) :
    (s.setKey k down).lastResult = s.lastResult := rfl
@[simp] theorem State.setKey_loaded (k : Fin 16) (down : Bool) : (s.setKey k down).loaded = s.loaded := rfl
@[simp] theorem State.setKey_params (k : Fin 16) (down : Bool) : (s.setKey k down).params = s.params := rfl

@[simp] theorem State.clearRedraw_mem : (s.clearRedraw).mem = s.mem := rfl
@[simp] theorem State.clearRedraw_v : (s.clearRedraw).v = s.v := rfl
@[simp] theorem State.clearRedraw_i : (s.clearRedraw).i = s.i := rfl
@[simp] theorem State.clearRedraw_pc : (s.clearRedraw).pc = s.pc := rfl
@[simp] theorem State.clearRedraw_stack : (s.clearRedraw).stack = s.stack := rfl
@[simp] theorem State.clearRedraw_sp : (s.clearRedraw).sp = s.sp := rfl
@[simp] theorem State.clearRedraw_dt : (s.clearRedraw).dt = s.dt := rfl
@[simp] theorem State.clearRedraw_st : (s.clearRedraw).st = s.st := rfl
@[simp] theorem State.clearRedraw_fb : (s.clearRedraw).fb = s.fb := rfl
@[simp] theorem State.clearRedraw_redraw : (s.clearRedraw).redraw = false := rfl
@[simp] theorem State.clearRedraw_key : (s.clearRedraw).key = s.key := rfl
@[simp] theorem State.clearRedraw_beep : (s.clearRedraw).beep = s.beep := rfl
@[simp] theorem State.clearRedraw_rng : (s.clearRedraw).rng = s.rng := rfl
@[simp] theorem State.clearRedraw_halted : (s.clearRedraw).halted = s.halted := rfl
@[simp] theorem State.clearRedraw_faultCause : (s.clearRedraw).faultCause = s.faultCause := rfl
@[simp] theorem State.clearRedraw_lastResult : (s.clearRedraw).lastResult = s.lastResult := rfl
@[simp] theorem State.clearRedraw_loaded : (s.clearRedraw).loaded = s.loaded := rfl
@[simp] theorem State.clearRedraw_params : (s.clearRedraw).params = s.params := rfl

@[simp] theorem State.consumeBeep_mem : (s.consumeBeep).mem = s.mem := rfl
@[simp] theorem State.consumeBeep_v : (s.consumeBeep).v = s.v := rfl
@[simp] theorem State.consumeBeep_i : (s.consumeBeep).i = s.i := rfl
@[simp] theorem State.consumeBeep_pc : (s.consumeBeep).pc = s.pc := rfl
@[simp] theorem State.consumeBeep_stack : (s.consumeBeep).stack = s.stack := rfl
@[simp] theorem State.consumeBeep_sp : (s.consumeBeep).sp = s.sp := rfl
@[simp] theorem State.consumeBeep_dt : (s.consumeBeep).dt = s.dt := rfl
@[simp] theorem State.consumeBeep_st : (s.consumeBeep).st = s.st := rfl
@[simp] theorem State.consumeBeep_fb : (s.consumeBeep).fb = s.fb := rfl
@[simp] theorem State.consumeBeep_redraw : (s.consumeBeep).redraw = s.redraw := rfl
@[simp] theorem State.consumeBeep_key : (s.consumeBeep).key = s.key := rfl
@[simp] theorem State.consumeBeep_beep : (s.consumeBeep).beep = false := rfl
@[simp] theorem State.consumeBeep_rng : (s.consumeBeep).rng = s.rng := rfl
@[simp] theorem State.consumeBeep_halted : (s.consumeBeep).halted = s.halted := rfl
@[simp] theorem State.consumeBeep_faultCause : (s.consumeBeep).faultCause = s.faultCause := rfl
@[simp] theorem State.consumeBeep_lastResult : (s.consumeBeep).lastResult = s.lastResult := rfl
@[simp] theorem State.consumeBeep_loaded : (s.consumeBeep).loaded = s.loaded := rfl
@[simp] theorem State.consumeBeep_params : (s.consumeBeep).params = s.params := rfl

@[simp] theorem State.powerOn_mem : (s.powerOn).mem = s.mem := rfl
@[simp] theorem State.powerOn_v : (s.powerOn).v = s.v := rfl
@[simp] theorem State.powerOn_i : (s.powerOn).i = s.i := rfl
@[simp] theorem State.powerOn_pc : (s.powerOn).pc = s.pc := rfl
@[simp] theorem State.powerOn_stack : (s.powerOn).stack = s.stack := rfl
@[simp] theorem State.powerOn_sp : (s.powerOn).sp = s.sp := rfl
@[simp] theorem State.powerOn_dt : (s.powerOn).dt = s.dt := rfl
@[simp] theorem State.powerOn_st : (s.powerOn).st = s.st := rfl
@[simp] theorem State.powerOn_fb : (s.powerOn).fb = s.fb := rfl
@[simp] theorem State.powerOn_redraw : (s.powerOn).redraw = s.redraw := rfl
@[simp] theorem State.powerOn_key : (s.powerOn).key = s.key := rfl
@[simp] theorem State.powerOn_beep : (s.powerOn).beep = s.beep := rfl
@[simp] theorem State.powerOn_rng : (s.powerOn).rng = s.rng.seed := rfl
@[simp] theorem State.powerOn_halted : (s.powerOn).halted = s.halted := rfl
@[simp] theorem State.powerOn_faultCause : (s.powerOn).faultCause = s.faultCause := rfl
@[simp] theorem State.powerOn_lastResult : (s.powerOn).lastResult = s.lastResult := rfl
@[simp] theorem State.powerOn_loaded : (s.powerOn).loaded = false := rfl
@[simp] theorem State.powerOn_params : (s.powerOn).params = s.params := rfl

end Sys2Proof.Machine
end

