-- ==== Sys2Proof/Laws/Display.lean ====
section
/-! SUPPORT. What drawing does, cell by cell: every target on the display flips once, and a collision is a target that
was lit before (45_display.md R171 (b)). -/

namespace Sys2Proof.Machine

/-- Row-then-column order, the order in which a sprite's targets are drawn. -/
def before (p q : Nat × Nat) : Prop := p.2 < q.2 ∨ p.2 = q.2 ∧ p.1 < q.1

/-- Cells off the display are never lit. -/
theorem Framebuffer.cell_off (fb : Framebuffer) {x y : Nat} (h : 63 < x ∨ 31 < y) : fb.cell x y = false := by
  unfold Framebuffer.cell
  split
  · exact BitVec.getLsbD_of_ge _ _ (by omega)
  · rfl

/-- Drawing a target flips that cell and no other. -/
theorem cell_drawCell (d : Framebuffer × Bool) (p : Nat × Nat) {x y : Nat} (hx : x < 64) (hy : y < 32) :
    (drawCell d p).1.cell x y = (d.1.cell x y ^^ decide (p = (x, y))) := by
  obtain ⟨px, py⟩ := p
  unfold drawCell
  split
  · rename_i h
    have h : px < 64 ∧ py < 32 := h
    simp only [Framebuffer.cell, hy, dif_pos]
    rw [Vector.getElem_set]
    split
    · rename_i he
      subst he
      simp [BitVec.getLsbD_xor, BitVec.getLsbD_twoPow, h.1]
    · rename_i he
      simp [he]
  · rename_i h
    have : (px, py) ≠ (x, y) := fun he => by
      obtain ⟨rfl, rfl⟩ := Prod.mk.inj he
      exact h ⟨hx, hy⟩
    simp [this]

/-- Drawing a target notes a collision when its cell was lit. -/
theorem collision_drawCell (d : Framebuffer × Bool) (p : Nat × Nat) :
    (drawCell d p).2 = (d.2 || d.1.cell p.1 p.2) := by
  unfold drawCell
  split
  · rfl
  · rename_i h
    rw [Framebuffer.cell_off _ (by omega)]
    simp

/-- Drawing distinct targets flips exactly the cells they name. -/
theorem cell_foldl_drawCell (ts : List (Nat × Nat)) (d : Framebuffer × Bool) (hd : ts.Nodup) {x y : Nat}
    (hx : x < 64) (hy : y < 32) :
    (ts.foldl drawCell d).1.cell x y = (d.1.cell x y ^^ decide ((x, y) ∈ ts)) := by
  induction ts generalizing d with
  | nil => simp
  | cons p rest ih =>
    rw [List.nodup_cons] at hd
    rw [List.foldl_cons, ih _ hd.2, cell_drawCell d p hx hy]
    by_cases hp : p = (x, y)
    · subst hp
      simp [hd.1]
    · simp [hp, Ne.symm hp]

/-- Drawing distinct targets collides iff one of them was lit before. -/
theorem collision_foldl_drawCell (ts : List (Nat × Nat)) (d : Framebuffer × Bool) (hd : ts.Nodup) :
    (ts.foldl drawCell d).2 = (d.2 || ts.any fun p => d.1.cell p.1 p.2) := by
  induction ts generalizing d with
  | nil => simp
  | cons p rest ih =>
    rw [List.nodup_cons] at hd
    have hrest : (rest.any fun q => (drawCell d p).1.cell q.1 q.2) = rest.any fun q => d.1.cell q.1 q.2 := by
      rw [Bool.eq_iff_iff, List.any_eq_true, List.any_eq_true]
      refine exists_congr fun q => and_congr_right fun hq => ?_
      by_cases ho : 63 < q.1 ∨ 31 < q.2
      · rw [Framebuffer.cell_off _ ho, Framebuffer.cell_off _ ho]
      · rw [cell_drawCell d p (by omega) (by omega)]
        have : p ≠ (q.1, q.2) := fun he => hd.1 (he ▸ hq)
        simp [this]
    rw [List.foldl_cons, ih _ hd.2, collision_drawCell, hrest]
    simp [Bool.or_assoc]

theorem cell_drawTargets (fb : Framebuffer) (ts : List (Nat × Nat)) (hd : ts.Nodup) {x y : Nat} (hx : x < 64)
    (hy : y < 32) : (drawTargets fb ts).1.cell x y = (fb.cell x y ^^ decide ((x, y) ∈ ts)) :=
  cell_foldl_drawCell ts _ hd hx hy

theorem collision_drawTargets (fb : Framebuffer) (ts : List (Nat × Nat)) (hd : ts.Nodup) :
    (drawTargets fb ts).2 = ts.any fun p => fb.cell p.1 p.2 :=
  (collision_foldl_drawCell ts (fb, false) hd).trans (Bool.false_or _)

/-! ### The targets of a sprite -/

theorem mem_rowTargets {x0 y : Nat} {b : Byte} {p : Nat × Nat} :
    p ∈ rowTargets x0 y b ↔ p.2 = y ∧ ∃ c < 8, b.getLsbD (7 - c) = true ∧ p.1 = x0 + c := by
  obtain ⟨px, py⟩ := p
  simp only [rowTargets, List.mem_map, List.mem_filter, List.mem_range, Prod.mk.injEq]
  constructor
  · rintro ⟨c, ⟨hc, hb⟩, rfl, rfl⟩
    exact ⟨rfl, c, hc, hb, rfl⟩
  · rintro ⟨rfl, c, hc, hb, rfl⟩
    exact ⟨c, ⟨hc, hb⟩, rfl, rfl⟩

/-- The targets of a sprite: row r, column c, bit 7 - c of the row's byte (45_display.md R172). -/
theorem mem_spriteTargets {x0 y0 : Nat} {rows : List Byte} {p : Nat × Nat} :
    p ∈ spriteTargets x0 y0 rows ↔
      ∃ r, ∃ h : r < rows.length, p.2 = y0 + r ∧ ∃ c < 8, rows[r].getLsbD (7 - c) = true ∧ p.1 = x0 + c := by
  induction rows generalizing y0 with
  | nil => simp [spriteTargets]
  | cons b rest ih =>
    rw [spriteTargets, List.mem_append, mem_rowTargets, ih]
    constructor
    · rintro (⟨hy, hc⟩ | ⟨r, hr, hy, hc⟩)
      · exact ⟨0, by simp, hy, hc⟩
      · exact ⟨r + 1, by simpa using hr, by omega, by simpa using hc⟩
    · rintro ⟨r, hr, hy, hc⟩
      cases r with
      | zero => exact .inl ⟨hy, hc⟩
      | succ r => exact .inr ⟨r, by simpa using hr, by omega, by simpa using hc⟩

theorem rowTargets_sorted (x0 y : Nat) (b : Byte) : (rowTargets x0 y b).Pairwise before := by
  unfold rowTargets
  rw [List.pairwise_map]
  refine List.Pairwise.imp (R := (· < ·)) (fun h => .inr ⟨rfl, ?_⟩) (List.Pairwise.filter _ List.pairwise_lt_range)
  show _ + _ < _ + _
  omega

/-- The targets of a sprite come in row-then-column order. -/
theorem spriteTargets_sorted (x0 y0 : Nat) (rows : List Byte) : (spriteTargets x0 y0 rows).Pairwise before := by
  induction rows generalizing y0 with
  | nil => exact List.Pairwise.nil
  | cons b rest ih =>
    refine List.pairwise_append.2 ⟨rowTargets_sorted x0 y0 b, ih _, fun p hp q hq => .inl ?_⟩
    obtain ⟨r, -, hq, -⟩ := mem_spriteTargets.1 hq
    have := (mem_rowTargets.1 hp).1
    omega

/-- Each cell is targeted at most once (45_display.md R171 (b)). -/
theorem spriteTargets_nodup (x0 y0 : Nat) (rows : List Byte) : (spriteTargets x0 y0 rows).Nodup :=
  (spriteTargets_sorted x0 y0 rows).imp fun h he => by
    subst he
    unfold before at h
    omega

end Sys2Proof.Machine
end

