-- ==== Sys2Proof/Laws/Memory.lean ====
section
/-! SUPPORT. The laws of memory: a read after a write, the frame of a write, and that every memory operation keeps the
canonical form; then the same for blocks and the range check. -/

namespace Sys2Proof.Machine

variable {font : Font} {m : Memory} {a c : Nat} {b : Byte}

@[simp] theorem Memory.lookup_cons_self (rest : Memory) : Memory.lookup a ((a, b) :: rest) = some b := by
  simp [Memory.lookup]

theorem Memory.lookup_cons_ne {k : Nat} (h : k ≠ a) (rest : Memory) :
    Memory.lookup a ((k, b) :: rest) = Memory.lookup a rest := by
  simp [Memory.lookup, h]

/-- An address below every listed one is not listed. -/
theorem Memory.lookup_eq_none (h : ∀ p ∈ m, a < p.1) : Memory.lookup a m = none := by
  induction m with
  | nil => rfl
  | cons p rest ih =>
    have := h p (by simp)
    rw [Memory.lookup_cons_ne (by omega)]
    exact ih fun q hq => h q (by simp [hq])

theorem Memory.read_cons_ne (h : c ≠ a) : Memory.read font (Memory.cons font a b m) c = Memory.read font m c := by
  unfold Memory.cons
  split
  · rfl
  · simp [Memory.read, Memory.lookup_cons_ne (Ne.symm h)]

theorem Memory.read_cons_self (h : ∀ p ∈ m, a < p.1) : Memory.read font (Memory.cons font a b m) a = b := by
  unfold Memory.cons
  split
  · simp [Memory.read, Memory.lookup_eq_none h, *]
  · simp [Memory.read]

/-- The frame of a write: every other address reads as before. -/
theorem Memory.read_write_ne (h : c ≠ a) : Memory.read font (Memory.write font a b m) c = Memory.read font m c := by
  induction m with
  | nil => exact Memory.read_cons_ne h
  | cons p rest ih =>
    obtain ⟨k, d⟩ := p
    unfold Memory.write
    split
    · exact Memory.read_cons_ne h
    · split
      · rename_i hk
        subst hk
        rw [Memory.read_cons_ne h]
        simp [Memory.read, Memory.lookup_cons_ne (Ne.symm h)]
      · by_cases hc : k = c
        · subst hc
          simp [Memory.read]
        · simpa [Memory.read, Memory.lookup_cons_ne hc] using ih

/-- A read after a write to the same address gives the byte written. -/
theorem Memory.read_write_self (h : m.Pairwise fun p q => p.1 < q.1) :
    Memory.read font (Memory.write font a b m) a = b := by
  induction m with
  | nil => exact Memory.read_cons_self (by simp)
  | cons p rest ih =>
    obtain ⟨k, d⟩ := p
    rw [List.pairwise_cons] at h
    unfold Memory.write
    split
    · rename_i hk
      refine Memory.read_cons_self fun q hq => ?_
      rcases List.mem_cons.1 hq with rfl | hq
      · exact hk
      · exact Nat.lt_trans hk (h.1 q hq)
    · split
      · rename_i hk
        subst hk
        exact Memory.read_cons_self h.1
      · rename_i hk
        simpa [Memory.read, Memory.lookup_cons_ne (Ne.symm hk)] using ih h.2

/-- Where the entries of a written memory come from. -/
theorem Memory.mem_write {p : Host.Cell} (h : p ∈ Memory.write font a b m) :
    p = (a, b) ∧ b ≠ Memory.background font a ∨ p ∈ m := by
  have hcons : ∀ {l : Memory}, p ∈ Memory.cons font a b l → p = (a, b) ∧ b ≠ Memory.background font a ∨ p ∈ l := by
    intro l hl
    unfold Memory.cons at hl
    split at hl
    · exact .inr hl
    · rcases List.mem_cons.1 hl with rfl | hl
      · exact .inl ⟨rfl, ‹_›⟩
      · exact .inr hl
  induction m with
  | nil => exact hcons h
  | cons q rest ih =>
    obtain ⟨k, d⟩ := q
    unfold Memory.write at h
    split at h
    · exact hcons h
    · split at h
      · exact (hcons h).imp_right (List.mem_cons_of_mem _)
      · rcases List.mem_cons.1 h with rfl | h
        · exact .inr (by simp)
        · exact (ih h).imp_right (List.mem_cons_of_mem _)

theorem Memory.cons_sorted (h : m.Pairwise fun p q => p.1 < q.1) (ha : ∀ p ∈ m, a < p.1) :
    (Memory.cons font a b m).Pairwise fun p q => p.1 < q.1 := by
  unfold Memory.cons
  split
  · exact h
  · exact List.pairwise_cons.2 ⟨ha, h⟩

/-- A write keeps the addresses strictly rising. -/
theorem Memory.write_sorted (h : m.Pairwise fun p q => p.1 < q.1) :
    (Memory.write font a b m).Pairwise fun p q => p.1 < q.1 := by
  induction m with
  | nil => exact Memory.cons_sorted h (by simp)
  | cons q rest ih =>
    obtain ⟨k, d⟩ := q
    have h' := List.pairwise_cons.1 h
    unfold Memory.write
    split
    · rename_i hk
      refine Memory.cons_sorted h fun q hq => ?_
      rcases List.mem_cons.1 hq with rfl | hq
      · exact hk
      · exact Nat.lt_trans hk (h'.1 q hq)
    · split
      · rename_i hk
        subst hk
        exact Memory.cons_sorted h'.2 h'.1
      · refine List.pairwise_cons.2 ⟨fun q hq => ?_, ih h'.2⟩
        rcases Memory.mem_write hq with ⟨rfl, -⟩ | hq
        · show k < a
          omega
        · exact h'.1 q hq

/-- A write in range keeps the canonical form. -/
theorem Memory.write_wf (h : Memory.wf font m) (ha : a < 4096) : Memory.wf font (Memory.write font a b m) := by
  refine ⟨Memory.write_sorted h.1, fun p hp => ?_⟩
  rcases Memory.mem_write hp with ⟨rfl, hb⟩ | hp
  · exact ⟨ha, hb⟩
  · exact h.2 p hp

theorem Memory.nil_wf : Memory.wf font [] := by simp [Memory.wf]

/-- A listed address reads as its entry. -/
theorem Memory.read_of_mem (h : m.Pairwise fun p q => p.1 < q.1) {p : Host.Cell} (hp : p ∈ m) :
    Memory.read font m p.1 = p.2 := by
  induction m with
  | nil => cases hp
  | cons q rest ih =>
    rw [List.pairwise_cons] at h
    rcases List.mem_cons.1 hp with rfl | hp
    · simp [Memory.read, Memory.lookup]
    · have hlt := h.1 p hp
      simpa [Memory.read, Memory.lookup_cons_ne (show q.1 ≠ p.1 by omega)] using ih h.2 hp

/-- An address whose byte is not what an unlisted address reads as is listed. -/
theorem Memory.mem_of_read (h : Memory.read font m a ≠ Memory.background font a) :
    (a, Memory.read font m a) ∈ m := by
  induction m with
  | nil => exact absurd rfl h
  | cons q rest ih =>
    obtain ⟨k, d⟩ := q
    by_cases hk : k = a
    · subst hk
      simp [Memory.read]
    · have he : Memory.read font ((k, d) :: rest) a = Memory.read font rest a := by
        simp [Memory.read, Memory.lookup_cons_ne hk]
      rw [he] at h ⊢
      exact List.mem_cons_of_mem _ (ih h)

/-- The form is canonical: memories that read the same everywhere are the same list. -/
theorem Memory.eq_of_read {n : Memory} (hm : Memory.wf font m) (hn : Memory.wf font n)
    (h : ∀ a, Memory.read font m a = Memory.read font n a) : m = n := by
  have sub : ∀ {m n : Memory}, Memory.wf font m → (∀ a, Memory.read font m a = Memory.read font n a) →
      ∀ p ∈ m, p ∈ n := fun {m n} hm h p hp => by
    have hr := Memory.read_of_mem (font := font) hm.1 hp
    have hb : Memory.read font n p.1 ≠ Memory.background font p.1 := by
      rw [← h, hr]
      exact (hm.2 p hp).2
    have := Memory.mem_of_read hb
    rwa [← h, hr] at this
  have nodup : ∀ {m : Memory}, Memory.wf font m → m.Nodup := fun hm => hm.1.imp fun hlt he => by
    subst he
    omega
  refine List.Perm.eq_of_pairwise (le := fun p q => p.1 < q.1) (fun p q _ _ h1 h2 => by omega) hm.1 hn.1 ?_
  exact (List.perm_ext_iff_of_nodup (nodup hm) (nodup hn)).2 fun p =>
    ⟨sub hm h p, sub hn (fun a => (h a).symm) p⟩

/-! ### The same through the state -/

variable (s : State)

theorem State.peek_poke_ne (h : c ≠ a) : (s.poke a b).peek c = s.peek c := Memory.read_write_ne h

theorem State.peek_poke_self (h : Memory.wf s.params.font s.mem) : (s.poke a b).peek a = b :=
  Memory.read_write_self h.1

theorem State.poke_wf (h : Memory.wf s.params.font s.mem) (ha : a < 4096) :
    Memory.wf (s.poke a b).params.font (s.poke a b).mem := Memory.write_wf h ha

/-- Storing a block changes memory only. -/
theorem State.pokeBlock_eq (bytes : List Byte) : s.pokeBlock a bytes = { s with mem := (s.pokeBlock a bytes).mem } := by
  induction bytes generalizing s a with
  | nil => rfl
  | cons b rest ih =>
    show (s.poke a b).pokeBlock (a + 1) rest = _
    rw [ih]
    rfl

@[simp] theorem State.pokeBlock_params (bytes : List Byte) : (s.pokeBlock a bytes).params = s.params := by
  rw [State.pokeBlock_eq]

/-- The frame of a block store: every address outside the block reads as before. -/
theorem State.peek_pokeBlock_ne (bytes : List Byte) (h : c < a ∨ a + bytes.length ≤ c) :
    (s.pokeBlock a bytes).peek c = s.peek c := by
  induction bytes generalizing s a with
  | nil => rfl
  | cons b rest ih =>
    simp only [List.length_cons] at h
    show ((s.poke a b).pokeBlock (a + 1) rest).peek c = _
    rw [ih _ (by omega), State.peek_poke_ne _ (by omega)]

/-- A block store keeps the canonical form. -/
theorem State.pokeBlock_wf (bytes : List Byte) (h : Memory.wf s.params.font s.mem) (ha : a + bytes.length ≤ 4096) :
    Memory.wf (s.pokeBlock a bytes).params.font (s.pokeBlock a bytes).mem := by
  induction bytes generalizing s a with
  | nil => exact h
  | cons b rest ih =>
    simp only [List.length_cons] at ha
    exact ih _ (State.poke_wf s h (by omega)) (by omega)

/-- A block store is read back byte by byte. -/
theorem State.peek_pokeBlock_mem (bytes : List Byte) (h : Memory.wf s.params.font s.mem) (ha : a + bytes.length ≤ 4096)
    (k : Nat) (hk : k < bytes.length) : (s.pokeBlock a bytes).peek (a + k) = bytes[k] := by
  induction bytes generalizing s a k with
  | nil => simp at hk
  | cons b rest ih =>
    simp only [List.length_cons] at ha hk
    have hw := State.poke_wf s (b := b) h (show a < 4096 by omega)
    show ((s.poke a b).pokeBlock (a + 1) rest).peek (a + k) = _
    cases k with
    | zero =>
      rw [State.peek_pokeBlock_ne _ _ (by omega)]
      exact State.peek_poke_self s h
    | succ j =>
      have := ih (s.poke a b) (a := a + 1) hw (by omega) j (by omega)
      rw [show a + (j + 1) = a + 1 + j by omega, this]
      rfl

@[simp] theorem State.length_peekBlock (n : Nat) : (s.peekBlock a n).length = n := by simp [State.peekBlock]

theorem State.getElem_peekBlock (n k : Nat) (hk : k < (s.peekBlock a n).length) :
    (s.peekBlock a n)[k] = s.peek (a + k) := by simp [State.peekBlock]

/-! ### The range check -/

theorem rangeFault_eq_none {n : Nat} : rangeFault a n = none ↔ n = 0 ∨ a + n ≤ 4096 := by
  unfold rangeFault
  split <;> simp <;> omega

theorem rangeFault_eq_some {n : Nat} {f : Fault} :
    rangeFault a n = some f ↔ (0 < n ∧ 4096 < a + n) ∧ f = .memoryOutOfBounds (max a 0x1000) := by
  unfold rangeFault
  split
  · simp only [Option.some.injEq]
    constructor
    · rintro rfl
      exact ⟨by omega, rfl⟩
    · rintro ⟨-, rfl⟩
      rfl
  · simp
    omega

theorem State.readBlock_ok {n : Nat} (h : n = 0 ∨ a + n ≤ 4096) : s.readBlock a n = .ok (s.peekBlock a n) := by
  simp [State.readBlock, rangeFault_eq_none.2 h]

theorem State.readBlock_error {n : Nat} (h0 : 0 < n) (h : 4096 < a + n) :
    s.readBlock a n = .error (.memoryOutOfBounds (max a 0x1000)) := by
  simp [State.readBlock, rangeFault_eq_some.2 ⟨⟨h0, h⟩, rfl⟩]

theorem State.writeBlock_ok {bytes : List Byte} (h : bytes.length = 0 ∨ a + bytes.length ≤ 4096) :
    s.writeBlock a bytes = .ok (s.pokeBlock a bytes) := by
  simp [State.writeBlock, rangeFault_eq_none.2 h]

theorem State.writeBlock_error {bytes : List Byte} (h0 : 0 < bytes.length) (h : 4096 < a + bytes.length) :
    s.writeBlock a bytes = .error (.memoryOutOfBounds (max a 0x1000)) := by
  simp [State.writeBlock, rangeFault_eq_some.2 ⟨⟨h0, h⟩, rfl⟩]

/-- A fetch in range reads the two bytes at `pc`. -/
theorem State.fetch_ok (h : s.pc.toNat ≤ 0xFFE) :
    s.fetch = .ok (wordOfBytes (s.peek s.pc.toNat) (s.peek (s.pc.toNat + 1))) := by
  simp [State.fetch, rangeFault_eq_none.2 (show 2 = 0 ∨ s.pc.toNat + 2 ≤ 4096 by omega)]

/-- A fetch out of range reports the lowest address it would touch. -/
theorem State.fetch_error (h : 0xFFE < s.pc.toNat) :
    s.fetch = .error (.memoryOutOfBounds (max s.pc.toNat 0x1000)) := by
  simp [State.fetch, rangeFault_eq_some.2 ⟨show 0 < 2 ∧ 4096 < s.pc.toNat + 2 by omega, rfl⟩]

end Sys2Proof.Machine
end

