-- ==== Sys2Proof/Laws/Ops.lean ====
section
/-! SUPPORT. One lemma per shared operation that says all it can do: registers, the call stack, finishing with a fault,
the key picked, the timers. -/

namespace Sys2Proof.Machine

variable (s : State)

/-! ### Registers -/

@[simp] theorem State.readV_setV_self (x : RegIdx) (b : Byte) : (s.setV x b).readV x = b := by
  simp [State.readV]

theorem State.readV_setV_ne {x y : RegIdx} (h : x ≠ y) (b : Byte) : (s.setV x b).readV y = s.readV y := by
  simp only [State.readV, State.setV_v]
  exact Vector.getElem_set_ne _ _ (fun he => h (Fin.ext he))

/-- Reading a register after a flag write, as the flag-first instructions do (42_alu.md R120). -/
theorem State.readV_setFlag (c : Bool) (x : RegIdx) :
    (s.setFlag c).readV x = if x = vf then flagByte c else s.readV x := by
  split
  · subst x
    exact s.readV_setV_self vf _
  · rename_i h
    exact s.readV_setV_ne (Ne.symm h) _

/-- The frame of a register write. -/
theorem State.v_setV_ne {x r : RegIdx} (h : r ≠ x) (b : Byte) : (s.setV x b).v[r.val] = s.v[r.val] :=
  s.readV_setV_ne (Ne.symm h) b

/-- The frame of a flag write. -/
theorem State.v_setFlag_ne {r : RegIdx} (h : r ≠ vf) (c : Bool) : (s.setFlag c).v[r.val] = s.v[r.val] :=
  s.v_setV_ne h _

/-- The frame of a flag-first instruction. -/
theorem State.v_flagThen_ne {x r : RegIdx} (hf : r ≠ vf) (hx : r ≠ x) (c : Bool) (f : State → Byte) :
    (s.flagThen c x f).v[r.val] = s.v[r.val] :=
  ((s.setFlag c).v_setV_ne hx _).trans (s.v_setFlag_ne hf c)

/-- VF after a flag write. -/
theorem State.v_setFlag_vf (c : Bool) : (s.setFlag c).v[15] = flagByte c := s.readV_setV_self vf _

/-- VF after a flag-first instruction whose destination is another register. -/
theorem State.v_flagThen_vf {x : RegIdx} (h : vf ≠ x) (c : Bool) (f : State → Byte) :
    (s.flagThen c x f).v[15] = flagByte c :=
  ((s.setFlag c).v_setV_ne (r := vf) h _).trans (s.v_setFlag_vf c)

theorem flagByte_zero_or_one (c : Bool) : flagByte c = 0 ∨ flagByte c = 1 := by cases c <;> simp [flagByte]

/-- A flag computed from a condition. -/
theorem flagByte_decide (p : Prop) [Decidable p] : flagByte (decide p) = if p then 1 else 0 := by
  by_cases h : p <;> simp [flagByte, h]

/-! ### The call stack -/

/-- A push either stores the entry and moves `sp` up, or faults because the stack is full. -/
theorem State.push_cases (ret : Word) :
    (∃ h : s.sp.val < 16, s.push ret =
      .ok { s with stack := s.stack.set s.sp.val ret h, sp := ⟨s.sp.val + 1, by omega⟩ }) ∨
    (s.sp.val = 16 ∧ s.push ret = .error (.stackOverflow s.pc)) := by
  by_cases h : s.sp.val < 16
  · exact .inl ⟨h, by simp [State.push, h]⟩
  · exact .inr ⟨by omega, by simp [State.push, h]⟩

/-- A pop either reads the top entry and moves `sp` down, or faults because the stack is empty. -/
theorem State.pop_cases :
    (∃ h : 0 < s.sp.val, s.pop =
      .ok (s.stack[s.sp.val - 1]'(by omega), { s with sp := ⟨s.sp.val - 1, by omega⟩ })) ∨
    (s.sp.val = 0 ∧ s.pop = .error (.stackUnderflow s.pc)) := by
  by_cases h : 0 < s.sp.val
  · exact .inl ⟨h, by simp [State.pop, h]⟩
  · exact .inr ⟨by omega, by simp [State.pop, h]⟩

/-! ### Finishing an instruction that may fault -/

@[simp] theorem State.orFault_error {α : Type} (f : Fault) (k : α → State) :
    s.orFault (.error f) k = .next (s.takeFault f) := rfl

@[simp] theorem State.orFault_ok {α : Type} (a : α) (k : α → State) : s.orFault (.ok a) k = .next (k a) := rfl

/-- Finishing with a possible fault always answers a next state. -/
theorem State.orFault_next {α : Type} (r : Except Fault α) (k : α → State) :
    (∃ f, r = .error f ∧ s.orFault r k = .next (s.takeFault f)) ∨ ∃ a, r = .ok a ∧ s.orFault r k = .next (k a) := by
  cases r with
  | error f => exact .inl ⟨f, rfl, rfl⟩
  | ok a => exact .inr ⟨a, rfl, rfl⟩

/-- A fault always records a cause (60_exceptions.md R216). -/
theorem Fault.cause_ne_none (f : Fault) : f.cause ≠ .none := by cases f <;> simp [Fault.cause]

/-! ### Keys -/

/-- A key is picked iff one is down. -/
theorem State.pickKey_isSome : s.pickKey.isSome = true ↔ ∃ k : Fin 16, s.key[k.val] = true := by
  unfold State.pickKey
  split <;> simp

/-- The key picked is down. -/
theorem State.pickKey_down {k : Fin 16} (h : s.pickKey = some k) : s.key[k.val] = true := by
  unfold State.pickKey at h
  split at h <;> simpa using List.find?_some (p := fun j : Fin 16 => s.key[j.val]) h

/-- The key index is the low four bits (46_keypad_timers.md R196). -/
theorem keyIndex_val (b : Byte) : (keyIndex b).val = b.toNat % 16 := by
  simp [keyIndex]

/-! ### Timers and flags -/

/-- A timer counts down by one and stops at 0 (60_exceptions.md R226). -/
theorem countDown_toNat (t : Byte) : (countDown t).toNat = t.toNat - 1 := by
  unfold countDown
  split
  · simp [*]
  · rename_i h
    have : t.toNat ≠ 0 := fun he => h (BitVec.eq_of_toNat_eq he)
    rw [BitVec.toNat_sub_of_le (by simp [BitVec.le_def]; omega)]
    rfl

/-- The beep of a post-step, as a choice (60_exceptions.md R228). -/
theorem beep_postStep (b : Bool) (t : Byte) : (b || t == 1) = if t = 1 then true else b := by
  split
  · next h =>
    subst h
    simp
  · next h => rw [beq_false_of_ne h, Bool.or_false]

/-- The inverted borrow is the unsigned comparison (42_alu.md R132). -/
theorem noBorrowFlag_eq (a b : Byte) : noBorrowFlag a b = decide (b.toNat ≤ a.toNat) := by
  rw [Bool.eq_iff_iff]
  simp [noBorrowFlag]

/-- The bit a right shift moves out is the parity (42_alu.md R132). -/
theorem shrFlag_eq (a : Byte) : shrFlag a = decide (a.toNat % 2 = 1) := by
  simp [shrFlag, BitVec.getLsbD, Nat.testBit_zero]

/-- The bit a left shift moves out is the top bit (42_alu.md R132). -/
theorem shlFlag_eq (a : Byte) : shlFlag a = decide (128 ≤ a.toNat) := by
  revert a
  decide

/-! ### The random source -/

/-- A draw moves the source to its successor and keeps its kind (44_random.md R161). -/
theorem RngState.draw_free (n : Nat) :
    (RngState.free n).draw = (Config.freeRandomByte n, .free (n + 1)) := rfl

theorem RngState.draw_reference (r : Word) :
    (RngState.reference r).draw = ((lfsrSteps 8 r).extractLsb' 0 8, .reference (lfsrSteps 8 r)) := rfl

/-- One more step of the reference generator, at the end. -/
theorem lfsrSteps_succ (k : Nat) (r : Word) : lfsrSteps (k + 1) r = lfsrStep (lfsrSteps k r) := by
  induction k generalizing r with
  | zero => rfl
  | succ k ih => exact ih (lfsrStep r)

/-- One step of the reference generator by the parity of the register (44_random.md R162). -/
theorem lfsrStep_eq (r : Word) : lfsrStep r = if r.toNat % 2 = 1 then (r >>> 1) ^^^ 0xB400 else r >>> 1 := by
  simp [lfsrStep, BitVec.getLsbD, Nat.testBit_zero]

/-- The reference generator never reaches zero (44_random.md R162). -/
theorem lfsrStep_ne_zero {r : Word} (h : r ≠ 0) : lfsrStep r ≠ 0 := by
  unfold lfsrStep
  split
  · intro he
    have := congrArg (fun v => v.getLsbD 15) he
    simp at this
  · rename_i hb
    intro he
    apply h
    apply BitVec.eq_of_getLsbD_eq
    intro k hk
    cases k with
    | zero => simpa using hb
    | succ k =>
      have := congrArg (fun v => v.getLsbD k) he
      simpa [Nat.add_comm] using this

theorem lfsrSteps_ne_zero {r : Word} (h : r ≠ 0) (k : Nat) : lfsrSteps k r ≠ 0 := by
  induction k generalizing r with
  | zero => exact h
  | succ k ih => exact ih (lfsrStep_ne_zero h)

end Sys2Proof.Machine
end

