-- ==== Sys2Proof/Laws/Cases.lean ====
section
/-! SUPPORT. What each instruction that has more than one outcome can do, said once: completes in one written-out state,
faults, or (FX0A) stalls. -/

namespace Sys2Proof.Machine

/-- 00EE pops, or faults on an empty stack. -/
theorem execRet_cases (s : State) :
    (∃ h : 0 < s.sp.val, execRet s = .next
      { s with sp := ⟨s.sp.val - 1, by omega⟩, pc := s.stack[s.sp.val - 1]'(by omega) }) ∨
    (s.sp.val = 0 ∧ execRet s = .next (s.takeFault (.stackUnderflow s.pc))) := by
  obtain ⟨h, he⟩ | ⟨h, he⟩ := s.pop_cases
  · exact .inl ⟨h, by simp only [execRet, he]; rfl⟩
  · exact .inr ⟨h, by simp only [execRet, he]; rfl⟩

/-- 2NNN pushes and jumps, or faults on a full stack. -/
theorem execCall_cases (nnn : BitVec 12) (s : State) :
    (∃ h : s.sp.val < 16, execCall nnn s = .next { s with
      stack := s.stack.set s.sp.val (s.pc + 2) h, sp := ⟨s.sp.val + 1, by omega⟩, pc := zextNNN nnn }) ∨
    (s.sp.val = 16 ∧ execCall nnn s = .next (s.takeFault (.stackOverflow s.pc))) := by
  obtain ⟨h, he⟩ | ⟨h, he⟩ := s.push_cases s.nextPc
  · exact .inl ⟨h, by simp only [execCall, he]; rfl⟩
  · exact .inr ⟨h, by simp only [execCall, he]; rfl⟩

/-- FX0A takes the picked key, or changes nothing when no key is down. -/
theorem execLdVxK_cases (x : RegIdx) (s : State) :
    (∃ k, s.pickKey = some k ∧ execLdVxK x s = .next (s.setV x (BitVec.ofNat 8 k.val)).advance) ∨
    (s.pickKey = none ∧ execLdVxK x s = .next s) := by
  unfold execLdVxK
  cases h : s.pickKey with
  | none => exact .inr ⟨rfl, rfl⟩
  | some k => exact .inl ⟨k, rfl, rfl⟩

/-- FX33 stores the three digits, or faults because the last address is above 0xFFF. -/
theorem execLdBVx_cases (x : RegIdx) (s : State) :
    (s.i.toNat + 2 ≤ 0xFFF ∧
      execLdBVx x s = .next
        { s with mem := (s.pokeBlock s.i.toNat (bcdDigits (s.readV x))).mem, pc := s.pc + 2 }) ∨
    (0xFFF < s.i.toNat + 2 ∧
      execLdBVx x s = .next (s.takeFault (.memoryOutOfBounds (max s.i.toNat 0x1000)))) := by
  have hl : (bcdDigits (s.readV x)).length = 3 := rfl
  by_cases h : s.i.toNat + 2 ≤ 0xFFF
  · refine .inl ⟨h, ?_⟩
    rw [execLdBVx, State.writeBlock_ok s (by omega), State.orFault_ok, State.pokeBlock_eq]
    rfl
  · exact .inr ⟨by omega, by rw [execLdBVx, State.writeBlock_error s (by omega) (by omega)]; rfl⟩

@[simp] theorem State.length_regBlock (s : State) (x : RegIdx) : (s.regBlock x).length = x.val + 1 := by
  simp [State.regBlock]

/-- FX55 stores V0 to VX and moves `I`, or faults because the last address is above 0xFFF. -/
theorem execStRegs_cases (x : RegIdx) (s : State) :
    (s.i.toNat + x.val ≤ 0xFFF ∧
      execStRegs x s = .next { s with
        mem := (s.pokeBlock s.i.toNat (s.regBlock x)).mem
        i := s.i + BitVec.ofNat 16 (x.val + 1)
        pc := s.pc + 2 }) ∨
    (0xFFF < s.i.toNat + x.val ∧
      execStRegs x s = .next (s.takeFault (.memoryOutOfBounds (max s.i.toNat 0x1000)))) := by
  have hl := s.length_regBlock x
  by_cases h : s.i.toNat + x.val ≤ 0xFFF
  · refine .inl ⟨h, ?_⟩
    rw [execStRegs, State.writeBlock_ok s (by omega), State.orFault_ok, State.pokeBlock_eq]
    rfl
  · exact .inr ⟨by omega, by rw [execStRegs, State.writeBlock_error s (by omega) (by omega)]; rfl⟩

/-- FX65 loads V0 to VX and moves `I`, or faults because the last address is above 0xFFF. -/
theorem execLdRegs_cases (x : RegIdx) (s : State) :
    (s.i.toNat + x.val ≤ 0xFFF ∧
      execLdRegs x s = .next { s with
        v := (s.loadRegBlock (s.peekBlock s.i.toNat (x.val + 1))).v
        i := s.i + BitVec.ofNat 16 (x.val + 1)
        pc := s.pc + 2 }) ∨
    (0xFFF < s.i.toNat + x.val ∧
      execLdRegs x s = .next (s.takeFault (.memoryOutOfBounds (max s.i.toNat 0x1000)))) := by
  by_cases h : s.i.toNat + x.val ≤ 0xFFF
  · exact .inl ⟨h, by rw [execLdRegs, State.readBlock_ok s (by omega)]; rfl⟩
  · exact .inr ⟨by omega, by rw [execLdRegs, State.readBlock_error s (by omega) (by omega)]; rfl⟩

/-- What DXYN targets when its sprite is in range. -/
def State.spriteOf (s : State) (x y : RegIdx) (n : BitVec 4) : List (Nat × Nat) :=
  s.drawTargetsOf x y (s.peekBlock s.i.toNat n.toNat)

/-- DXYN draws, or faults because the sprite is out of memory, or off the display under the policy `fault`. -/
theorem execDrw_cases (x y : RegIdx) (n : BitVec 4) (s : State) :
    ((n.toNat = 0 ∨ s.i.toNat + n.toNat - 1 ≤ 0xFFF) ∧
      displayFault s.params.drawEdge (s.spriteOf x y n) = none ∧
      execDrw x y n s = .next (s.drawSprite (s.spriteOf x y n)).advance) ∨
    ((n.toNat = 0 ∨ s.i.toNat + n.toNat - 1 ≤ 0xFFF) ∧ ∃ f,
      displayFault s.params.drawEdge (s.spriteOf x y n) = some f ∧ execDrw x y n s = .next (s.takeFault f)) ∨
    (0 < n.toNat ∧ 0xFFF < s.i.toNat + n.toNat - 1 ∧
      execDrw x y n s = .next (s.takeFault (.memoryOutOfBounds (max s.i.toNat 0x1000)))) := by
  by_cases h : n.toNat = 0 ∨ s.i.toNat + n.toNat - 1 ≤ 0xFFF
  · have he := s.readBlock_ok (a := s.i.toNat) (n := n.toNat) (by omega)
    cases hd : displayFault s.params.drawEdge (s.spriteOf x y n) with
    | none =>
      refine .inl ⟨h, rfl, ?_⟩
      unfold State.spriteOf at *
      simp only [execDrw, he, hd]
    | some f =>
      refine .inr (.inl ⟨h, f, rfl, ?_⟩)
      unfold State.spriteOf at *
      simp only [execDrw, he, hd]
  · refine .inr (.inr ⟨by omega, by omega, ?_⟩)
    simp only [execDrw, s.readBlock_error (a := s.i.toNat) (n := n.toNat) (by omega) (by omega)]

/-- The targets of DXYN, in the terms of the statements. -/
theorem mem_spriteOf (s : State) (x y : RegIdx) (n : BitVec 4) (cx cy : Nat) :
    (cx, cy) ∈ s.spriteOf x y n ↔ s.SpriteCovers x y n cx cy := by
  simp only [State.spriteOf, State.drawTargetsOf, mem_spriteTargets, State.length_peekBlock, State.SpriteCovers,
    State.getElem_peekBlock, State.readV]
  constructor
  · rintro ⟨r, hr, hy, c, hc, hb, hx⟩
    exact ⟨r, hr, c, hc, hx, hy, hb⟩
  · rintro ⟨r, hr, c, hc, hx, hy, hb⟩
    exact ⟨r, hr, hy, c, hc, hb, hx⟩

/-- When a sprite takes no display fault (45_display.md R173). -/
theorem displayFault_none {p : DrawEdgePolicy} {ts : List (Nat × Nat)} :
    displayFault p ts = none ↔ p = .clip ∨ ∀ q ∈ ts, q.1 ≤ 63 ∧ q.2 ≤ 31 := by
  unfold displayFault
  split
  · rename_i h
    rw [List.find?_eq_none] at h
    simp only [true_iff]
    refine .inr fun q hq => ?_
    have := h q hq
    simp [offDisplay] at this
    omega
  · rename_i q h
    have hm := List.mem_of_find?_eq_some h
    have ho := List.find?_some h
    simp [offDisplay] at ho
    split
    · simp
    · simp
      exact ⟨q.1, q.2, hm, by omega⟩

end Sys2Proof.Machine
end

