-- ==== Sys2Proof/Laws/Exec.lean ====
section
/-! SUPPORT. What an instruction and a step can do, said once: later proofs cite these instead of unfolding `exec` and
`step`. -/

namespace Sys2Proof.Machine

/-- Every instruction answers a next state: either a fault taken from the state it began in, or a state with the halt
latch as it was. -/
theorem exec_outcome (i : Instr) (s : State) :
    (∃ f, exec i s = .next (s.takeFault f)) ∨ ∃ t, exec i s = .next t ∧ t.halted = s.halted := by
  have hf : ∀ {α : Type} (r : Except Fault α) (k : α → State), (∀ a, r = .ok a → (k a).halted = s.halted) →
      (∃ f, s.orFault r k = .next (s.takeFault f)) ∨ ∃ t, s.orFault r k = .next t ∧ t.halted = s.halted := by
    intro α r k hk
    obtain ⟨f, -, h⟩ | ⟨a, ha, h⟩ := s.orFault_next r k
    · exact .inl ⟨f, h⟩
    · exact .inr ⟨_, h, hk a ha⟩
  have hw : ∀ {a : Nat} {bytes : List Byte} {t : State}, s.writeBlock a bytes = .ok t → t.halted = s.halted := by
    intro a bytes t h
    unfold State.writeBlock at h
    split at h
    · cases h
    · cases h
      rw [State.pokeBlock_eq]
  cases i with
  | ret =>
    refine hf _ _ fun p hp => ?_
    obtain ⟨h, he⟩ | ⟨h, he⟩ := s.pop_cases
    · rw [he] at hp
      cases hp
      rfl
    · rw [he] at hp
      cases hp
  | call nnn =>
    refine hf _ _ fun t ht => ?_
    obtain ⟨h, he⟩ | ⟨h, he⟩ := s.push_cases s.nextPc
    · rw [he] at ht
      cases ht
      rfl
    · rw [he] at ht
      cases ht
  | drw x y n =>
    show (∃ f, execDrw x y n s = _) ∨ ∃ t, execDrw x y n s = _ ∧ _
    unfold execDrw
    split
    · exact .inl ⟨_, rfl⟩
    · split
      · exact .inl ⟨_, rfl⟩
      · exact .inr ⟨_, rfl, rfl⟩
  | ldVxK x =>
    show (∃ f, execLdVxK x s = _) ∨ ∃ t, execLdVxK x s = _ ∧ _
    unfold execLdVxK
    split <;> exact .inr ⟨_, rfl, rfl⟩
  | ldBVx x =>
    refine hf _ _ fun t ht => ?_
    show t.halted = s.halted
    exact hw ht
  | stRegs x =>
    refine hf _ _ fun t ht => ?_
    show t.halted = s.halted
    exact hw ht
  | ldRegs x =>
    refine hf _ _ fun bytes _ => ?_
    rfl
  | cls => exact .inr ⟨_, rfl, rfl⟩
  | jp nnn => exact .inr ⟨_, rfl, rfl⟩
  | seImm x nn => exact .inr ⟨_, rfl, rfl⟩
  | sneImm x nn => exact .inr ⟨_, rfl, rfl⟩
  | seReg x y => exact .inr ⟨_, rfl, rfl⟩
  | sneReg x y => exact .inr ⟨_, rfl, rfl⟩
  | ldImm x nn => exact .inr ⟨_, rfl, rfl⟩
  | addImm x nn => exact .inr ⟨_, rfl, rfl⟩
  | ldReg x y => exact .inr ⟨_, rfl, rfl⟩
  | or x y => exact .inr ⟨_, rfl, rfl⟩
  | and x y => exact .inr ⟨_, rfl, rfl⟩
  | xor x y => exact .inr ⟨_, rfl, rfl⟩
  | addReg x y => exact .inr ⟨_, rfl, rfl⟩
  | sub x y => exact .inr ⟨_, rfl, rfl⟩
  | shr x y => exact .inr ⟨_, rfl, rfl⟩
  | subn x y => exact .inr ⟨_, rfl, rfl⟩
  | shl x y => exact .inr ⟨_, rfl, rfl⟩
  | ldI nnn => exact .inr ⟨_, rfl, rfl⟩
  | jpV0 nnn => exact .inr ⟨_, rfl, rfl⟩
  | rnd x nn => exact .inr ⟨_, rfl, rfl⟩
  | skp x => exact .inr ⟨_, rfl, rfl⟩
  | sknp x => exact .inr ⟨_, rfl, rfl⟩
  | ldVxDt x => exact .inr ⟨_, rfl, rfl⟩
  | ldDtVx x => exact .inr ⟨_, rfl, rfl⟩
  | ldStVx x => exact .inr ⟨_, rfl, rfl⟩
  | addIVx x => exact .inr ⟨_, rfl, rfl⟩
  | ldFVx x => exact .inr ⟨_, rfl, rfl⟩

/-- Every way a step can answer a next state (40_cycle.md R80): it began halted, the fetch faulted, the word is no
instruction, the instruction took a fault, or the instruction completed and the post-step ran. -/
theorem step_cases {s t : State} (h : step s = .next t) : s.loaded = true ∧
    ((s.halted = true ∧ t = s.haltedCycle) ∨
     (s.halted = false ∧ ∃ f, s.fetch = .error f ∧ t = s.takeFault f) ∨
     (s.halted = false ∧ ∃ w r, s.fetch = .ok w ∧ decodeWord w = .error r ∧ t = s.unknownCycle w) ∨
     (s.halted = false ∧ ∃ w i f, s.fetch = .ok w ∧ decodeWord w = .ok i ∧ exec i s = .next (s.takeFault f) ∧
       t = s.takeFault f) ∨
     (s.halted = false ∧ ∃ w i u, s.fetch = .ok w ∧ decodeWord w = .ok i ∧ exec i s = .next u ∧ u.halted = false ∧
       t = u.postStep.report .ok)) := by
  unfold step at h
  split at h
  · rename_i hl
    refine ⟨hl, ?_⟩
    unfold State.cycle at h
    split at h
    · rename_i hh
      exact .inl ⟨hh, (Host.Outcome.next.inj h).symm⟩
    · rename_i hh
      have hh : s.halted = false := by simpa using hh
      refine .inr ?_
      split at h
      · rename_i f hf
        exact .inl ⟨hh, f, hf, (Host.Outcome.next.inj h).symm⟩
      · rename_i w hw
        refine .inr ?_
        unfold State.cycleWord at h
        split at h
        · rename_i r hr
          exact .inl ⟨hh, w, r, hw, hr, (Host.Outcome.next.inj h).symm⟩
        · rename_i i hi
          refine .inr ?_
          obtain ⟨f, he⟩ | ⟨u, he, hu⟩ := exec_outcome i s
          · rw [he] at h
            exact .inl ⟨hh, w, i, f, hw, hi, he, (Host.Outcome.next.inj h).symm⟩
          · rw [he] at h
            rw [hh] at hu
            refine .inr ⟨hh, w, i, u, hw, hi, he, hu, ?_⟩
            have := (Host.Outcome.next.inj h).symm
            simpa [State.finishCycle, hu] using this
  · cases h

/-- A state that fetches `w` reads exactly `w` (40_cycle.md R82). -/
theorem State.Fetches.fetch_eq {s : State} {w : Word} (h : s.Fetches w) : s.fetch = .ok w := by
  rw [State.fetch_ok s h.inRange, h.high, h.low, wordOfBytes_highByte_lowByte]

/-- A fetched word that decodes is executed, and the CYCLE is finished (40_cycle.md R80). -/
theorem State.Fetches.step_eq {s t : State} {w : Word} {i : Instr} (h : s.Fetches w) (hd : decodeWord w = .ok i)
    (he : exec i s = .next t) : step s = .next t.finishCycle := by
  simp only [step, h.running.loaded, State.cycle, h.running.notHalted, h.fetch_eq, State.cycleWord, hd, he, if_true,
    Bool.false_eq_true, if_false]

/-- A fetched word that does not decode is reported, and the post-step runs (40_cycle.md R84). -/
theorem State.Fetches.step_unknown {s : State} {w : Word} {r : DecodeReject} (h : s.Fetches w)
    (hd : decodeWord w = .error r) : step s = .next (s.unknownCycle w) := by
  simp only [step, h.running.loaded, State.cycle, h.running.notHalted, h.fetch_eq, State.cycleWord, hd, if_true,
    Bool.false_eq_true, if_false]

end Sys2Proof.Machine
end

