-- ==== Sys2Proof/Laws/Host.lean ====
section
/-! SUPPORT. What LOAD and the host's accesses can do, said once. -/

namespace Sys2Proof.Machine

variable (s : State)

/-- LOAD accepts the bytes and answers the reset state with them in place, or changes nothing
(70_reset_and_hazards.md R241, R242). -/
theorem State.load_cases (bytes : List Byte) :
    (bytes.length ≤ 3584 ∧ s.load bytes = (.ok, s.afterLoad bytes)) ∨
    (3584 < bytes.length ∧ s.load bytes = (.sizeError, s)) := by
  by_cases h : bytes.length ≤ 3584
  · exact .inl ⟨h, by simp [State.load, programWf, h]⟩
  · exact .inr ⟨by omega, by simp [State.load, programWf, h]⟩

/-- After LOAD everything but memory is as `State.cleared` says. -/
theorem State.afterLoad_eq (bytes : List Byte) :
    s.afterLoad bytes = { State.cleared s.params s.rng with mem := (s.afterLoad bytes).mem } :=
  State.pokeBlock_eq _ bytes

/-- A core that nothing is loaded into has canonical memory. -/
theorem State.cleared_wf (params : Params) (rng : RngState) :
    Memory.wf (State.cleared params rng).params.font (State.cleared params rng).mem := Memory.nil_wf

/-- LOAD leaves memory canonical. -/
theorem State.afterLoad_wf {bytes : List Byte} (h : bytes.length ≤ 3584) :
    Memory.wf (s.afterLoad bytes).params.font (s.afterLoad bytes).mem :=
  State.pokeBlock_wf _ bytes (State.cleared_wf _ _) (by simp only [Config.programBase]; omega)

/-- After a LOAD an access answers. -/
theorem State.access_of_loaded {α : Type} (h : s.loaded = true) (a : α) : s.access a = .next a := by
  simp [State.access, h]

/-- Before the first LOAD an access is refused. -/
theorem State.access_of_unloaded {α : Type} (h : s.loaded = false) (a : α) : s.access a = .refused .notLoaded := by
  simp [State.access, h]

/-- An access that answers found the core loaded and answers what was asked. -/
theorem State.access_cases {α : Type} {a b : α} (h : s.access a = .next b) : s.loaded = true ∧ b = a := by
  unfold State.access at h
  split at h
  · exact ⟨‹_›, (Host.Outcome.next.inj h).symm⟩
  · cases h

/-- Every way a move can answer a next state. -/
theorem State.perform_cases {m : HostMove} {t : State} (h : s.perform m = .next t) :
    (∃ bytes, m = .load bytes ∧ t = (s.load bytes).2) ∨ (m = .cycle ∧ step s = .next t) ∨
    (s.loaded = true ∧ ((∃ k down, m = .setKey k down ∧ t = s.setKey k down) ∨
      (m = .clearRedraw ∧ t = s.clearRedraw) ∨ (m = .consumeBeep ∧ t = s.consumeBeep))) := by
  have acc : ∀ {u : State}, s.access u = .next t → s.loaded = true ∧ t = u := s.access_cases
  cases m with
  | load bytes => exact .inl ⟨bytes, rfl, (Host.Outcome.next.inj h).symm⟩
  | cycle => exact .inr (.inl ⟨rfl, h⟩)
  | setKey k down => exact .inr (.inr ⟨(acc h).1, .inl ⟨k, down, rfl, (acc h).2⟩⟩)
  | clearRedraw => exact .inr (.inr ⟨(acc h).1, .inr (.inl ⟨rfl, (acc h).2⟩)⟩)
  | consumeBeep => exact .inr (.inr ⟨(acc h).1, .inr (.inr ⟨rfl, (acc h).2⟩)⟩)

end Sys2Proof.Machine
end

