-- ==== Sys2Proof/Laws/PerInstr.lean ====
section
/-! SUPPORT. Statements made per instruction. Family `EncodedWordFitsMap`: the word the encoder writes for an
instruction is a well-formed word, that is, some row of the mask-and-match map fits it (30_encoding.md R64). -/

namespace Sys2Proof.Laws

/-- Masking a word of format NNN to its family digit. -/
theorem wordNNN_mask (op : BitVec 4) (nnn : BitVec 12) : wordNNN op nnn &&& 0xF000 = wordNNN op 0 := by
  apply BitVec.eq_of_getLsbD_eq
  intro k hk
  simp only [wordNNN, BitVec.getLsbD_and, BitVec.getLsbD_append]
  interval_cases k <;> simp

/-- Masking a word of format XNN to its family digit. -/
theorem wordXNN_mask (op : BitVec 4) (x : RegIdx) (nn : Byte) : wordXNN op x nn &&& 0xF000 = wordXNN op 0 0 := by
  apply BitVec.eq_of_getLsbD_eq
  intro k hk
  simp only [wordXNN, BitVec.getLsbD_and, BitVec.getLsbD_append]
  interval_cases k <;> simp

/-- Masking a word of format X to its family digit and its low byte. -/
theorem wordXNN_maskX (op : BitVec 4) (x : RegIdx) (nn : Byte) : wordXNN op x nn &&& 0xF0FF = wordXNN op 0 nn := by
  apply BitVec.eq_of_getLsbD_eq
  intro k hk
  simp only [wordXNN, BitVec.getLsbD_and, BitVec.getLsbD_append]
  interval_cases k <;> simp

/-- Masking a word of format XY to its family digit and its low nibble. -/
theorem wordXYN_mask (op : BitVec 4) (x y : RegIdx) (n : BitVec 4) :
    wordXYN op x y n &&& 0xF00F = wordXYN op 0 0 n := by
  apply BitVec.eq_of_getLsbD_eq
  intro k hk
  simp only [wordXYN, BitVec.getLsbD_and, BitVec.getLsbD_append]
  interval_cases k <;> simp

/-- Masking a word of format XYN to its family digit. -/
theorem wordXYN_maskOp (op : BitVec 4) (x y : RegIdx) (n : BitVec 4) :
    wordXYN op x y n &&& 0xF000 = wordXYN op 0 0 0 := by
  apply BitVec.eq_of_getLsbD_eq
  intro k hk
  simp only [wordXYN, BitVec.getLsbD_and, BitVec.getLsbD_append]
  interval_cases k <;> simp

/-- A word that a row of the map fits is well formed. -/
theorem wordWf_of_row {w : Word} (r : OpcodeRow) (hr : r ∈ opcodeMap) (h : w &&& r.mask = r.pattern) :
    wordWf w = true :=
  List.any_eq_true.2 ⟨r, hr, beq_iff_eq.2 h⟩

namespace EncodedWordFitsMap

/-- The encoder writes a word that the opcode map lists. -/
def Statement (i : Instr) : Prop := wordWf (encodeWord i) = true

theorem cls : Statement .cls :=
  wordWf_of_row ⟨"CLS", 0xFFFF, 0x00E0⟩ (by decide) rfl

theorem ret : Statement .ret :=
  wordWf_of_row ⟨"RET", 0xFFFF, 0x00EE⟩ (by decide) rfl

theorem jp (nnn : BitVec 12) : Statement (.jp nnn) :=
  wordWf_of_row ⟨"JP", 0xF000, 0x1000⟩ (by decide) (wordNNN_mask _ _)

theorem call (nnn : BitVec 12) : Statement (.call nnn) :=
  wordWf_of_row ⟨"CALL", 0xF000, 0x2000⟩ (by decide) (wordNNN_mask _ _)

theorem seImm (x : RegIdx) (nn : Byte) : Statement (.seImm x nn) :=
  wordWf_of_row ⟨"SE_IMM", 0xF000, 0x3000⟩ (by decide) (wordXNN_mask _ _ _)

theorem sneImm (x : RegIdx) (nn : Byte) : Statement (.sneImm x nn) :=
  wordWf_of_row ⟨"SNE_IMM", 0xF000, 0x4000⟩ (by decide) (wordXNN_mask _ _ _)

theorem seReg (x y : RegIdx) : Statement (.seReg x y) :=
  wordWf_of_row ⟨"SE_REG", 0xF00F, 0x5000⟩ (by decide) (wordXYN_mask _ _ _ _)

theorem sneReg (x y : RegIdx) : Statement (.sneReg x y) :=
  wordWf_of_row ⟨"SNE_REG", 0xF00F, 0x9000⟩ (by decide) (wordXYN_mask _ _ _ _)

theorem ldImm (x : RegIdx) (nn : Byte) : Statement (.ldImm x nn) :=
  wordWf_of_row ⟨"LD_IMM", 0xF000, 0x6000⟩ (by decide) (wordXNN_mask _ _ _)

theorem addImm (x : RegIdx) (nn : Byte) : Statement (.addImm x nn) :=
  wordWf_of_row ⟨"ADD_IMM", 0xF000, 0x7000⟩ (by decide) (wordXNN_mask _ _ _)

theorem ldReg (x y : RegIdx) : Statement (.ldReg x y) :=
  wordWf_of_row ⟨"LD_REG", 0xF00F, 0x8000⟩ (by decide) (wordXYN_mask _ _ _ _)

theorem or (x y : RegIdx) : Statement (.or x y) :=
  wordWf_of_row ⟨"OR", 0xF00F, 0x8001⟩ (by decide) (wordXYN_mask _ _ _ _)

theorem and (x y : RegIdx) : Statement (.and x y) :=
  wordWf_of_row ⟨"AND", 0xF00F, 0x8002⟩ (by decide) (wordXYN_mask _ _ _ _)

theorem xor (x y : RegIdx) : Statement (.xor x y) :=
  wordWf_of_row ⟨"XOR", 0xF00F, 0x8003⟩ (by decide) (wordXYN_mask _ _ _ _)

theorem addReg (x y : RegIdx) : Statement (.addReg x y) :=
  wordWf_of_row ⟨"ADD_REG", 0xF00F, 0x8004⟩ (by decide) (wordXYN_mask _ _ _ _)

theorem sub (x y : RegIdx) : Statement (.sub x y) :=
  wordWf_of_row ⟨"SUB", 0xF00F, 0x8005⟩ (by decide) (wordXYN_mask _ _ _ _)

theorem shr (x y : RegIdx) : Statement (.shr x y) :=
  wordWf_of_row ⟨"SHR", 0xF00F, 0x8006⟩ (by decide) (wordXYN_mask _ _ _ _)

theorem subn (x y : RegIdx) : Statement (.subn x y) :=
  wordWf_of_row ⟨"SUBN", 0xF00F, 0x8007⟩ (by decide) (wordXYN_mask _ _ _ _)

theorem shl (x y : RegIdx) : Statement (.shl x y) :=
  wordWf_of_row ⟨"SHL", 0xF00F, 0x800E⟩ (by decide) (wordXYN_mask _ _ _ _)

theorem ldI (nnn : BitVec 12) : Statement (.ldI nnn) :=
  wordWf_of_row ⟨"LD_I", 0xF000, 0xA000⟩ (by decide) (wordNNN_mask _ _)

theorem jpV0 (nnn : BitVec 12) : Statement (.jpV0 nnn) :=
  wordWf_of_row ⟨"JP_V0", 0xF000, 0xB000⟩ (by decide) (wordNNN_mask _ _)

theorem rnd (x : RegIdx) (nn : Byte) : Statement (.rnd x nn) :=
  wordWf_of_row ⟨"RND", 0xF000, 0xC000⟩ (by decide) (wordXNN_mask _ _ _)

theorem drw (x y : RegIdx) (n : BitVec 4) : Statement (.drw x y n) :=
  wordWf_of_row ⟨"DRW", 0xF000, 0xD000⟩ (by decide) (wordXYN_maskOp _ _ _ _)

theorem skp (x : RegIdx) : Statement (.skp x) :=
  wordWf_of_row ⟨"SKP", 0xF0FF, 0xE09E⟩ (by decide) (wordXNN_maskX _ _ _)

theorem sknp (x : RegIdx) : Statement (.sknp x) :=
  wordWf_of_row ⟨"SKNP", 0xF0FF, 0xE0A1⟩ (by decide) (wordXNN_maskX _ _ _)

theorem ldVxDt (x : RegIdx) : Statement (.ldVxDt x) :=
  wordWf_of_row ⟨"LD_VX_DT", 0xF0FF, 0xF007⟩ (by decide) (wordXNN_maskX _ _ _)

theorem ldVxK (x : RegIdx) : Statement (.ldVxK x) :=
  wordWf_of_row ⟨"LD_VX_K", 0xF0FF, 0xF00A⟩ (by decide) (wordXNN_maskX _ _ _)

theorem ldDtVx (x : RegIdx) : Statement (.ldDtVx x) :=
  wordWf_of_row ⟨"LD_DT_VX", 0xF0FF, 0xF015⟩ (by decide) (wordXNN_maskX _ _ _)

theorem ldStVx (x : RegIdx) : Statement (.ldStVx x) :=
  wordWf_of_row ⟨"LD_ST_VX", 0xF0FF, 0xF018⟩ (by decide) (wordXNN_maskX _ _ _)

theorem addIVx (x : RegIdx) : Statement (.addIVx x) :=
  wordWf_of_row ⟨"ADD_I_VX", 0xF0FF, 0xF01E⟩ (by decide) (wordXNN_maskX _ _ _)

theorem ldFVx (x : RegIdx) : Statement (.ldFVx x) :=
  wordWf_of_row ⟨"LD_F_VX", 0xF0FF, 0xF029⟩ (by decide) (wordXNN_maskX _ _ _)

theorem ldBVx (x : RegIdx) : Statement (.ldBVx x) :=
  wordWf_of_row ⟨"LD_B_VX", 0xF0FF, 0xF033⟩ (by decide) (wordXNN_maskX _ _ _)

theorem stRegs (x : RegIdx) : Statement (.stRegs x) :=
  wordWf_of_row ⟨"ST_REGS", 0xF0FF, 0xF055⟩ (by decide) (wordXNN_maskX _ _ _)

theorem ldRegs (x : RegIdx) : Statement (.ldRegs x) :=
  wordWf_of_row ⟨"LD_REGS", 0xF0FF, 0xF065⟩ (by decide) (wordXNN_maskX _ _ _)

end EncodedWordFitsMap

end Sys2Proof.Laws
end

