-- ==== Sys2Proof/Tests/Slice0.lean ====
section
/-! SUPPORT. Tests: the smoke of WellFormed, one decoded word per constructor, single steps with the results of
95_test_vectors.md, and for each statement with hypotheses a state that meets them. -/

open Sys2Proof Sys2Proof.Machine

namespace Sys2Proof.Tests

/-! ### WellFormed refuses what is ill-formed (30_encoding.md R65, 70_reset_and_hazards.md R242) -/

theorem test_wordWf_refuses_family_0 : [0x0000, 0x0123, 0x00E1, 0x01E0].all (fun w => !wordWf w) = true := by decide

theorem test_wordWf_refuses_family_5 : [0x5121].all (fun w => !wordWf w) = true := by decide

theorem test_wordWf_refuses_family_8 : [0x8128, 0x812F].all (fun w => !wordWf w) = true := by decide

theorem test_wordWf_refuses_family_9 : [0x9121].all (fun w => !wordWf w) = true := by decide

theorem test_wordWf_refuses_family_E : [0xE19F, 0xE000].all (fun w => !wordWf w) = true := by decide

theorem test_wordWf_refuses_family_F : [0xF100, 0xF1FF, 0xF075].all (fun w => !wordWf w) = true := by decide

theorem test_programWf_refuses_3585 : programWf (List.replicate 3585 0) = false := by
  rw [programWf, List.length_replicate]
  decide

theorem test_programWf_accepts_3584 : programWf (List.replicate 3584 0) = true := by
  rw [programWf, List.length_replicate]
  decide

theorem test_memory_wf_refuses_disorder : ¬Memory.wf Config.defaultFont [(0x301, 1), (0x300, 1)] := by decide

theorem test_memory_wf_refuses_background : ¬Memory.wf Config.defaultFont [(0x300, 0)] := by decide

theorem test_memory_wf_refuses_no_address : ¬Memory.wf Config.defaultFont [(0x1000, 1)] := by decide

/-! ### Every constructor, from a word written out from its pattern (30_encoding.md R64) -/

theorem test_decode_cls : decodeTableWord 16 0x00E0 = some (.cls) := by decide

theorem test_decode_ret : decodeTableWord 16 0x00EE = some (.ret) := by decide

theorem test_decode_jp : decodeTableWord 16 0x1ABC = some (.jp 0xABC) := by decide

theorem test_decode_call : decodeTableWord 16 0x2ABC = some (.call 0xABC) := by decide

theorem test_decode_seImm : decodeTableWord 16 0x3A2B = some (.seImm 10 0x2B) := by decide

theorem test_decode_sneImm : decodeTableWord 16 0x4A2B = some (.sneImm 10 0x2B) := by decide

theorem test_decode_seReg : decodeTableWord 16 0x5120 = some (.seReg 1 2) := by decide

theorem test_decode_sneReg : decodeTableWord 16 0x9120 = some (.sneReg 1 2) := by decide

theorem test_decode_ldImm : decodeTableWord 16 0x6A7F = some (.ldImm 10 0x7F) := by decide

theorem test_decode_addImm : decodeTableWord 16 0x7105 = some (.addImm 1 0x05) := by decide

theorem test_decode_ldReg : decodeTableWord 16 0x8120 = some (.ldReg 1 2) := by decide

theorem test_decode_or : decodeTableWord 16 0x8121 = some (.or 1 2) := by decide

theorem test_decode_and : decodeTableWord 16 0x8122 = some (.and 1 2) := by decide

theorem test_decode_xor : decodeTableWord 16 0x8123 = some (.xor 1 2) := by decide

theorem test_decode_addReg : decodeTableWord 16 0x8124 = some (.addReg 1 2) := by decide

theorem test_decode_sub : decodeTableWord 16 0x8125 = some (.sub 1 2) := by decide

theorem test_decode_shr : decodeTableWord 16 0x8126 = some (.shr 1 2) := by decide

theorem test_decode_subn : decodeTableWord 16 0x8127 = some (.subn 1 2) := by decide

theorem test_decode_shl : decodeTableWord 16 0x812E = some (.shl 1 2) := by decide

theorem test_decode_ldI : decodeTableWord 16 0xA2F0 = some (.ldI 0x2F0) := by decide

theorem test_decode_jpV0 : decodeTableWord 16 0xB4FF = some (.jpV0 0x4FF) := by decide

theorem test_decode_rnd : decodeTableWord 16 0xC30F = some (.rnd 3 0x0F) := by decide

theorem test_decode_drw : decodeTableWord 16 0xD123 = some (.drw 1 2 3) := by decide

theorem test_decode_skp : decodeTableWord 16 0xE59E = some (.skp 5) := by decide

theorem test_decode_sknp : decodeTableWord 16 0xE5A1 = some (.sknp 5) := by decide

theorem test_decode_ldVxDt : decodeTableWord 16 0xF307 = some (.ldVxDt 3) := by decide

theorem test_decode_ldVxK : decodeTableWord 16 0xF10A = some (.ldVxK 1) := by decide

theorem test_decode_ldDtVx : decodeTableWord 16 0xF315 = some (.ldDtVx 3) := by decide

theorem test_decode_ldStVx : decodeTableWord 16 0xF318 = some (.ldStVx 3) := by decide

theorem test_decode_addIVx : decodeTableWord 16 0xF21E = some (.addIVx 2) := by decide

theorem test_decode_ldFVx : decodeTableWord 16 0xF429 = some (.ldFVx 4) := by decide

theorem test_decode_ldBVx : decodeTableWord 16 0xF033 = some (.ldBVx 0) := by decide

theorem test_decode_stRegs : decodeTableWord 16 0xF255 = some (.stRegs 2) := by decide

theorem test_decode_ldRegs : decodeTableWord 16 0xF265 = some (.ldRegs 2) := by decide

theorem test_decode_bytes_big_endian : decodeBytes [0x12, 0x34, 0xFF] = .ok (.jp 0x234, [0xFF]) := by decide

theorem test_decode_one_byte : decodeBytes [0x12] = .error .truncated := by decide

/-! ### Single steps (95_test_vectors.md) -/

/-- The core after one CYCLE on the word `w`; where the step does not answer next, an unloaded core. -/
def after (s : State) (w : Nat) : State :=
  match step (s.withFetchWord 16 w) with
  | .next t => t
  | .fault _ => { s with loaded := false }
  | .refused _ => { s with loaded := false }

/-- The CYCLE returned `Ok` and left `pc` at `p`. -/
def okAt (t : State) (p : Word) : Bool := t.loaded && t.lastResult == some .ok && t.pc == p

/-- The start state of the vectors. -/
def start : State := State.reset

/-- The lit cells among a short list. -/
def lit (t : State) (ps : List (Nat × Nat)) : List (Nat × Nat) := ps.filter fun p => t.fb.cell p.1 p.2

/-- A one-row sprite 0xFF at cell (63, 31), under an edge policy. -/
def cornerSprite (p : DrawEdgePolicy) : State :=
  { (start.setV 1 63).setV 2 31 with mem := [(0x300, 0xFF)], i := 0x300, params := { start.params with drawEdge := p } }

/-- How many cells are lit. -/
def litCount (t : State) : Nat :=
  ((List.range 32).map fun y => ((List.range 64).filter fun x => t.fb.cell x y).length).sum

/-- S2, G15. -/
theorem test_step_cls :
    (let t := after (start.drawSprite [(0, 0), (63, 31)]) 0x00E0
     okAt t 0x202 && litCount t == 0 && t.redraw) = true := by
  decide

/-- F2. -/
theorem test_step_jp :
    (let t := after start 0x1FFF
     okAt t 0xFFF) = true := by
  decide

/-- F4. -/
theorem test_step_call :
    (let t := after { start with pc := 0x204 } 0x2210
     okAt t 0x210 && t.stack[0] == 0x206 && t.sp == 1) = true := by
  decide

/-- F9. -/
theorem test_step_call_full :
    (let t := after { start with sp := 16, dt := 9 } 0x2400
     t.halted && t.faultCause == .stackOverflow && t.lastResult == some (.fault (.stackOverflow 0x200)) &&
     t.sp == 16 && t.dt == 9) = true := by
  decide

/-- F6. -/
theorem test_step_ret :
    (let t := after { start with sp := 1, stack := start.stack.set 0 0x202 } 0x00EE
     okAt t 0x202 && t.sp == 0 && t.stack[0] == 0x202) = true := by
  decide

/-- F7. -/
theorem test_step_ret_empty :
    (let t := after start 0x00EE
     t.halted && t.faultCause.code == 3 && t.lastResult == some (.fault (.stackUnderflow 0x200)) && t.pc ==
     0x200) = true := by
  decide

/-- F10. -/
theorem test_step_seImm :
    (let t := after (start.setV 3 0x2A) 0x332A
     okAt t 0x204) = true := by
  decide

/-- F11. -/
theorem test_step_sneImm :
    (let t := after (start.setV 3 0x2A) 0x432A
     okAt t 0x202) = true := by
  decide

/-- F12. -/
theorem test_step_seReg :
    (let t := after ((start.setV 1 7).setV 2 8) 0x5120
     okAt t 0x202) = true := by
  decide

/-- F14. -/
theorem test_step_sneReg :
    (let t := after ((start.setV 1 7).setV 2 8) 0x9120
     okAt t 0x204) = true := by
  decide

/-- F18. -/
theorem test_step_jpV0 :
    (let t := after (start.setV 0 0xFF) 0xBFFF
     okAt t 0x10FE) = true := by
  decide

/-- F20. -/
theorem test_step_jpV0_always_v0 :
    (let t := after ((start.setV 0 0x10).setV 4 0x77) 0xB4FF
     okAt t 0x50F) = true := by
  decide

/-- A1. -/
theorem test_step_ldImm :
    (let t := after start 0x6A7F
     okAt t 0x202 && t.v[10] == 0x7F) = true := by
  decide

/-- A2. -/
theorem test_step_addImm :
    (let t := after ((start.setV 1 0xFE).setV 15 1) 0x7105
     okAt t 0x202 && t.v[1] == 3 && t.v[15] == 1) = true := by
  decide

/-- A4. -/
theorem test_step_ldReg :
    (let t := after (start.setV 2 0xAB) 0x8F20
     okAt t 0x202 && t.v[15] == 0xAB) = true := by
  decide

/-- A5. -/
theorem test_step_or :
    (let t := after (((start.setV 1 0xF0).setV 2 0x0F).setV 15 7) 0x8121
     okAt t 0x202 && t.v[1] == 0xFF && t.v[15] == 7) = true := by
  decide

/-- A6. -/
theorem test_step_and :
    (let t := after ((start.setV 1 0xF0).setV 2 0x3C) 0x8122
     okAt t 0x202 && t.v[1] == 0x30) = true := by
  decide

/-- A7. -/
theorem test_step_xor :
    (let t := after ((start.setV 1 0xF0).setV 2 0x3C) 0x8123
     okAt t 0x202 && t.v[1] == 0xCC) = true := by
  decide

/-- S3. -/
theorem test_step_addReg :
    (let t := after ((start.setV 1 0xFF).setV 2 1) 0x8124
     okAt t 0x202 && t.v[1] == 0 && t.v[15] == 1) = true := by
  decide

/-- A14. -/
theorem test_step_addReg_flag_first :
    (let t := after ((start.setV 15 0xF0).setV 1 0x20) 0x8F14
     okAt t 0x202 && t.v[15] == 0x21) = true := by
  decide

/-- S4. -/
theorem test_step_sub :
    (let t := after ((start.setV 1 1).setV 2 2) 0x8125
     okAt t 0x202 && t.v[1] == 0xFF && t.v[15] == 0) = true := by
  decide

/-- A18. -/
theorem test_step_sub_equal :
    (let t := after ((start.setV 1 5).setV 2 5) 0x8125
     okAt t 0x202 && t.v[1] == 0 && t.v[15] == 1) = true := by
  decide

/-- A36. -/
theorem test_step_shr :
    (let t := after ((start.setV 1 4).setV 2 0xFF) 0x8126
     okAt t 0x202 && t.v[1] == 2 && t.v[15] == 0 && t.v[2] == 0xFF) = true := by
  decide

/-- A39. -/
theorem test_step_shr_vf :
    (let t := after (start.setV 15 3) 0x8F06
     okAt t 0x202 && t.v[15] == 0) = true := by
  decide

/-- A28. -/
theorem test_step_subn :
    (let t := after ((start.setV 1 5).setV 2 2) 0x8127
     okAt t 0x202 && t.v[1] == 0xFD && t.v[15] == 0) = true := by
  decide

/-- A30. -/
theorem test_step_subn_flag_first :
    (let t := after ((start.setV 1 0x10).setV 15 0x20) 0x81F7
     okAt t 0x202 && t.v[15] == 1 && t.v[1] == 0xF1) = true := by
  decide

/-- A41. -/
theorem test_step_shl :
    (let t := after (start.setV 1 0x81) 0x810E
     okAt t 0x202 && t.v[1] == 2 && t.v[15] == 1) = true := by
  decide

/-- A44. -/
theorem test_step_shl_vf :
    (let t := after (start.setV 15 0x80) 0x8F0E
     okAt t 0x202 && t.v[15] == 2) = true := by
  decide

/-- M1. -/
theorem test_step_ldI :
    (let t := after start 0xA2F0
     okAt t 0x202 && t.i == 0x2F0) = true := by
  decide

/-- M2. -/
theorem test_step_addIVx :
    (let t := after { start.setV 2 3 with i := 0xFFE } 0xF21E
     okAt t 0x202 && t.i == 0x1001 && t.v[15] == 1) = true := by
  decide

/-- M6. -/
theorem test_step_addIVx_vf :
    (let t := after { start.setV 15 0x20 with i := 0xFF0 } 0xFF1E
     okAt t 0x202 && t.i == 0xFF1 && t.v[15] == 1) = true := by
  decide

/-- M8. -/
theorem test_step_ldFVx :
    (let t := after (start.setV 4 0xFF) 0xF429
     okAt t 0x202 && t.i == 0x4FB) = true := by
  decide

/-- M11. -/
theorem test_step_ldBVx :
    (let t := after { start.setV 0 123 with i := 0xFFD } 0xF033
     okAt t 0x202 && t.peekBlock 0xFFD 3 == [1, 2, 3] && t.i == 0xFFD) = true := by
  decide

/-- M12. -/
theorem test_step_ldBVx_fault :
    (let t := after { start.setV 0 123 with i := 0xFFE } 0xF033
     t.lastResult == some (.fault (.memoryOutOfBounds 0x1000)) && t.peek 0xFFE == 0 && t.pc == 0x200) = true := by
  decide

/-- M14. -/
theorem test_step_stRegs :
    (let t := after { (((start.setV 0 1).setV 1 2).setV 2 3).setV 3 4 with i := 0x400 } 0xF255
     okAt t 0x202 && t.peekBlock 0x400 4 == [1, 2, 3, 0] && t.i == 0x403) = true := by
  decide

/-- M17. -/
theorem test_step_stRegs_fault :
    (let t := after { start.setV 0 1 with i := 0xFF1 } 0xFF55
     t.lastResult == some (.fault (.memoryOutOfBounds 0x1000)) && t.peek 0xFF1 == 0 && t.i == 0xFF1) = true := by
  decide

/-- M18. -/
theorem test_step_ldRegs :
    (let t := after { (start.setV 3 0x55).pokeBlock 0x400 [9, 8, 7, 6] with i := 0x400 } 0xF265
     okAt t 0x202 && t.v[0] == 9 && t.v[1] == 8 && t.v[2] == 7 && t.v[3] == 0x55 && t.i == 0x403) = true := by
  decide

/-- M20. -/
theorem test_step_ldRegs_fault :
    (let t := after { start with i := 0xFFF } 0xF165
     t.lastResult == some (.fault (.memoryOutOfBounds 0x1000)) && t.i == 0xFFF) = true := by
  decide

/-- X1. -/
theorem test_step_rnd :
    (let t := after { start with rng := .reference 0xACE1 } 0xC30F
     okAt t 0x202 && t.v[3] == 4 && t.rng == .reference 0xC2C4) = true := by
  decide

/-- G4 with the coordinate held in VF, as in G11. -/
theorem test_step_drw_edge :
    (let t := after { (start.setV 15 60).poke 0x300 0xFF with i := 0x300 } 0xDF11
     okAt t 0x202 && lit t [(60, 0), (61, 0), (62, 0), (63, 0)] == [(60, 0), (61, 0), (62, 0), (63, 0)] &&
     litCount t == 4 && t.v[15] == 0) = true := by
  decide

/-- G13. -/
theorem test_step_drw_collision :
    (let t := after { start.drawSprite [(1, 0)] with mem := [(0x300, 0xC0)], i := 0x300 } 0xD121
     okAt t 0x202 && lit t [(0, 0), (1, 0)] == [(0, 0)] && t.v[15] == 1 && t.redraw) = true := by
  decide

/-- T3. -/
theorem test_step_skp :
    (let t := after ((start.setV 5 0x1A).setKey 10 true) 0xE59E
     okAt t 0x204) = true := by
  decide

/-- T2. -/
theorem test_step_sknp :
    (let t := after ((start.setV 5 0x0A).setKey 10 true) 0xE5A1
     okAt t 0x202) = true := by
  decide

/-- T5. -/
theorem test_step_ldVxK :
    (let t := after ((start.setKey 3 true).setKey 12 true) 0xF10A
     okAt t 0x202 && t.v[1] == 3) = true := by
  decide

/-- S6. -/
theorem test_step_ldVxK_stall :
    (let t := after { start.setV 1 0x99 with dt := 3, st := 1 } 0xF10A
     okAt t 0x200 && t.v[1] == 0x99 && t.dt == 2 && t.st == 0 && t.beep) = true := by
  decide

/-- T7. -/
theorem test_step_ldVxDt :
    (let t := after { start with dt := 0x2C } 0xF307
     okAt t 0x202 && t.v[3] == 0x2C && t.dt == 0x2B) = true := by
  decide

/-- T10. -/
theorem test_step_ldDtVx :
    (let t := after (start.setV 3 0xFF) 0xF315
     okAt t 0x202 && t.dt == 0xFE) = true := by
  decide

/-- T11. -/
theorem test_step_ldStVx :
    (let t := after (start.setV 3 1) 0xF318
     okAt t 0x202 && t.st == 0 && t.beep) = true := by
  decide

/-- K1. -/
theorem test_step_unknown :
    (let t := after { start with dt := 3, st := 1 } 0x0000
     t.lastResult == some (.unknownOpcode 0x200 0) && t.pc == 0x200 && t.dt == 2 && t.beep && !t.halted) = true := by
  decide

/-- 2.5: the first eight bytes of the reference generator from power-on (44_random.md R162). -/
theorem test_reference_bytes :
    ((List.range 8).map fun k => ((lfsrSteps (8 * (k + 1)) 0xACE1).extractLsb' 0 8 : Byte)) =
      [0xC4, 0x62, 0x3B, 0x0D, 0xBB, 0x77, 0x1F, 0xBF] := by
  decide

/-- K5: a fetch at 0xFFF. -/
theorem test_fetch_at_top :
    (({ start with pc := 0xFFF } : State).fetch matches .error (.memoryOutOfBounds 0x1000)) := by
  decide

/-- 20_memory.md R42, the default font: the glyph of 7 is at 0x23. -/
theorem test_font_glyph : start.peekBlock 0x23 5 = [0xF0, 0x10, 0x20, 0x40, 0x40] := by decide

/-! ### A state that meets the hypotheses of each statement -/

theorem witness_LoadResetsAndInstallsTheProgram :
    (List.replicate 3584 (0 : Byte)).length ≤ 3584 ∧ 3584 < (List.replicate 3585 (0 : Byte)).length := by
  rw [List.length_replicate, List.length_replicate]
  decide

theorem witness_CycleBeforeLoadIsRefused :
    ({ start with loaded := false } : State).loaded = false ∧ start.loaded = true ∧
      (∀ bytes, HostMove.setKey 15 true ≠ .load bytes) ∧ (0 : Fin 16) ≠ 15 ∧
      (2047 : Fin 2048).val = 63 + 64 * 31 ∧ start.rng = .free 0 ∧
      ({ start with rng := .reference 1 } : State).rng = .reference 1 :=
  ⟨rfl, rfl, fun _ h => (nomatch h), by decide, rfl, rfl, rfl⟩

/-- A halted core. -/
def stopped : State := start.takeFault (.stackUnderflow 0x200)

theorem witness_HaltedCoreStaysAsItIs : stopped.loaded = true ∧ stopped.halted = true := ⟨rfl, rfl⟩

theorem witness_FetchOutOfRangeFaults :
    (∃ s : State, s.Running ∧ 0xFFE < s.pc.toNat ∧ s.pc.toNat = 0xFFF) ∧
      ∃ s : State, s.Running ∧ 0xFFE < s.pc.toNat ∧ s.pc.toNat = 0x1000 :=
  ⟨⟨{ start with pc := 0xFFF }, ⟨rfl, rfl⟩, by decide, rfl⟩,
    ⟨{ start with pc := 0x1000 }, ⟨rfl, rfl⟩, by decide, rfl⟩⟩

theorem start_fetches (w : Nat) (h : (start.withFetchWord 16 w).peek 0x200 = highByte (tableWord 16 w) ∧
    (start.withFetchWord 16 w).peek 0x201 = lowByte (tableWord 16 w)) :
    (start.withFetchWord 16 w).Fetches (tableWord 16 w) :=
  ⟨⟨rfl, rfl⟩, show (0x200 : Word).toNat ≤ 0xFFE by decide, h.1, h.2⟩

theorem witness_StepRunsTheDecodedInstruction :
    (∃ (s t : State) (i : Instr), s.Running ∧ s.pc.toNat ≤ 0xFFE ∧
      decodeBytes [s.peek s.pc.toNat, s.peek (s.pc.toNat + 1)] = .ok (i, []) ∧ exec i s = .next t ∧
      t.halted = true) ∧
    ∃ (s t : State) (i : Instr), s.Running ∧ s.pc.toNat ≤ 0xFFE ∧
      decodeBytes [s.peek s.pc.toNat, s.peek (s.pc.toNat + 1)] = .ok (i, []) ∧ exec i s = .next t ∧
      t.halted = false :=
  ⟨⟨start.withFetchWord 16 0x00EE, _, .ret, ⟨rfl, rfl⟩, by decide, by decide, rfl, rfl⟩,
    ⟨start.withFetchWord 16 0x1ABC, _, .jp 0xABC, ⟨rfl, rfl⟩, by decide, by decide, rfl, rfl⟩⟩

theorem witness_UnknownOpcodeIsReportedForever : start.Fetches 0 ∧ wordWf 0 = false :=
  ⟨⟨⟨rfl, rfl⟩, by decide, by decide, by decide⟩, by decide⟩

theorem witness_LoadedStepAlwaysAnswersNext : start.loaded = true := rfl

theorem start_inv : start.Inv := ⟨by decide, by decide, by decide, by decide, trivial⟩

theorem witness_EveryStepKeepsTheInvariant : ∃ s t : State, s.Inv ∧ step s = .next t := ⟨start, _, start_inv, rfl⟩

theorem witness_InvariantHoldsAfterLoad :
    ∃ t, start.rng.legal ∧ start.load [0x12, 0x00] = (.ok, t) := ⟨_, trivial, rfl⟩

theorem witness_FatalFaultsArePrecise :
    ∃ s t : State, s.halted = false ∧ step s = .next t ∧ t.halted = true :=
  ⟨{ start with pc := 0xFFF }, _, rfl, rfl, rfl⟩

/-- The core with `I` at an address. -/
def startAt (i : Word) : State := { start with i := i }

/-- Every kind of fault, each at the first value that raises it. -/
theorem witness_OnlyTheListedInstructionsFault :
    (∃ t, exec .ret start = .next t ∧ t.halted = true) ∧
    (∃ t, exec (.call 0x400) { start with sp := 16 } = .next t ∧ t.halted = true) ∧
    (∃ t, exec (.drw 0 0 1) (startAt 0x1000) = .next t ∧ t.halted = true) ∧
    (∃ t, exec (.drw 1 2 1) (cornerSprite .fault) = .next t ∧ t.halted = true) ∧
    (∃ t, exec (.ldBVx 0) (startAt 0xFFE) = .next t ∧ t.halted = true) ∧
    (∃ t, exec (.stRegs 15) (startAt 0xFF1) = .next t ∧ t.halted = true) ∧
    ∃ t, exec (.ldRegs 0) (startAt 0x1000) = .next t ∧ t.halted = true :=
  ⟨⟨_, rfl, rfl⟩, ⟨_, rfl, rfl⟩, ⟨_, rfl, rfl⟩, ⟨_, rfl, rfl⟩, ⟨_, rfl, rfl⟩, ⟨_, rfl, rfl⟩, ⟨_, rfl, rfl⟩⟩

theorem witness_NextPcFollowsTheClass :
    (∃ t, exec .cls start = .next t ∧ t.halted = false ∧ pcClass .cls = .sequential) ∧
    (∃ t, exec (.seImm 0 0) start = .next t ∧ t.halted = false ∧ pcClass (.seImm 0 0) = .skip) ∧
    (∃ t, exec (.ldVxK 0) start = .next t ∧ t.halted = false ∧ pcClass (.ldVxK 0) = .stall) ∧
    (∃ t, exec (.jp 0xFFF) start = .next t ∧ t.halted = false ∧ pcClass (.jp 0xFFF) = .direct) ∧
    (∃ t, exec (.call 0xFFF) { start with sp := 15 } = .next t ∧ t.halted = false ∧ pcClass (.call 0xFFF) = .direct) ∧
    (∃ t, exec (.jpV0 0xFFF) start = .next t ∧ t.halted = false ∧ pcClass (.jpV0 0xFFF) = .direct) ∧
    ∃ t, exec .ret { start with sp := 16 } = .next t ∧ t.halted = false ∧ pcClass .ret = .direct :=
  ⟨⟨_, rfl, rfl, rfl⟩, ⟨_, rfl, rfl, rfl⟩, ⟨_, rfl, rfl, rfl⟩, ⟨_, rfl, rfl, rfl⟩, ⟨_, rfl, rfl, rfl⟩, ⟨_, rfl, rfl, rfl⟩,
    ⟨_, rfl, rfl, rfl⟩⟩

/-- 8124 on the start state runs, and is none of the instructions that the frames except. -/
theorem witness_frames :
    ∃ t, exec (.addReg 1 2) start = .next t ∧ t.halted = false ∧ (∀ x, Instr.addReg 1 2 ≠ .ldBVx x) ∧
      (∀ x, Instr.addReg 1 2 ≠ .stRegs x) ∧ Instr.addReg 1 2 ≠ .cls ∧ (∀ x y n, Instr.addReg 1 2 ≠ .drw x y n) ∧
      (∀ nnn, Instr.addReg 1 2 ≠ .call nnn) ∧ Instr.addReg 1 2 ≠ .ret ∧ (∀ nnn, Instr.addReg 1 2 ≠ .ldI nnn) ∧
      (∀ x, Instr.addReg 1 2 ≠ .addIVx x) ∧ (∀ x, Instr.addReg 1 2 ≠ .ldFVx x) ∧
      (∀ x, Instr.addReg 1 2 ≠ .ldRegs x) ∧ (∀ x, Instr.addReg 1 2 ≠ .ldDtVx x) ∧
      (∀ x, Instr.addReg 1 2 ≠ .ldStVx x) ∧ (∀ x nn, Instr.addReg 1 2 ≠ .rnd x nn) ∧
      writesReg 3 (.addReg 1 2) = false ∧ writesReg 15 (.addReg 1 2) = false ∧ writesFlag (.addReg 1 2) = true ∧
      (3 : RegIdx) ≠ 15 := by
  refine ⟨_, rfl, rfl, ?_⟩
  simp [writesReg, writesFlag]

theorem witness_StepLeavesTheHostsStateAlone :
    ∃ s t : State, step s = .next t ∧ s.redraw = true ∧ s.beep = true :=
  ⟨{ start with redraw := true, beep := true }, _, rfl, rfl, rfl⟩

theorem witness_EveryMoveKeepsTheInvariant : ∃ t, start.Inv ∧ start.perform (.load [0x12, 0x00]) = .next t :=
  ⟨_, start_inv, rfl⟩

theorem witness_OnlyLoadLeavesTheHalt :
    (∃ t, stopped.halted = true ∧ stopped.perform .cycle = .next t ∧ t.halted = true) ∧
      ∃ t, stopped.halted = true ∧ stopped.perform (.load []) = .next t ∧ t.halted = false :=
  ⟨⟨_, rfl, rfl, rfl⟩, ⟨_, rfl, rfl, rfl⟩⟩

theorem witness_decoding :
    decodeWord 0x00E0 = .ok .cls ∧ wordWf 0x00E0 = true ∧ wordWf 0x0000 = false ∧
      ∃ r ∈ opcodeMap, r.fits 0x00E0 = true := by
  refine ⟨by decide, by decide, by decide, ⟨"CLS", 0xFFFF, 0x00E0⟩, ?_, ?_⟩ <;> decide

theorem witness_CallPushesTheReturnAddress :
    ({ start with sp := 15 } : State).sp.val < 16 ∧ ({ start with sp := 16 } : State).sp.val = 16 := by decide

theorem witness_ReturnPopsTheStoredAddress :
    ({ start with sp := 1 } : State).sp.val = (0 : Fin 16).val + 1 ∧
      ({ start with sp := 16 } : State).sp.val = (15 : Fin 16).val + 1 ∧ start.sp.val = 0 := by decide

theorem witness_ReturnResumesAfterTheCall :
    ∃ t, exec (.call 0x300) { start with sp := 15 } = .next t ∧ t.halted = false := ⟨_, rfl, rfl⟩

/-- A carry at its boundary, 255 and 256; the flag hypotheses only name the register file after the flag. -/
theorem witness_flag_statements :
    ¬255 < (0x80 : Byte).toNat + (0x7F : Byte).toNat ∧ 255 < (0x80 : Byte).toNat + (0x80 : Byte).toNat ∧
      ∃ w : Regs, w = start.v.set 15 (if 255 < start.v[1].toNat + start.v[2].toNat then 1 else 0) :=
  ⟨by decide, by decide, _, rfl⟩

theorem witness_StoreDigitsWritesThreeBytes :
    Memory.wf (startAt 0xFFD).params.font (startAt 0xFFD).mem ∧ (startAt 0xFFD).i.toNat + 2 ≤ 0xFFF := by decide

theorem witness_register_blocks :
    Memory.wf (startAt 0xFF0).params.font (startAt 0xFF0).mem ∧
      (startAt 0xFF0).i.toNat + (15 : RegIdx).val ≤ 0xFFF := by decide

theorem witness_StoreThenLoadRoundTripsRegisters :
    ∃ t, exec (.stRegs 1) (startAt 0x300) = .next t ∧ t.halted = false ∧
      ∃ u : State, u.mem = t.mem ∧ u.params = t.params ∧ u.i = (startAt 0x300).i :=
  ⟨_, rfl, rfl, { start with mem := _, i := 0x300 }, rfl, rfl, rfl⟩

theorem witness_BlockAccessOutOfRangeFaults :
    0xFFF < (startAt 0xFFE).i.toNat + 2 ∧ 0xFFF < (startAt 0xFF1).i.toNat + (15 : RegIdx).val ∧
      0 < (1 : BitVec 4).toNat ∧ 0xFFF < (startAt 0x1000).i.toNat + (1 : BitVec 4).toNat - 1 := by decide

theorem witness_FetchSeesWhatWasStored :
    1 ≤ (1 : RegIdx).val ∧ Memory.wf start.params.font (startAt 0xFFE).mem ∧
      ∃ t, exec (.stRegs 1) (startAt 0xFFE) = .next t ∧ t.halted = false :=
  ⟨by decide, by decide, _, rfl, rfl⟩

theorem witness_RandomByteIsDrawnOnceAndMasked :
    start.rng = .free 0 ∧ ({ start with rng := .reference 0xACE1 } : State).rng = .reference 0xACE1 := ⟨rfl, rfl⟩

/-- The two ways to meet the memory hypothesis, each at its boundary, and the two policies. -/
theorem witness_DrawXorsTheSprite :
    ((0 : BitVec 4) = 0) ∧ (startAt 0xFF1).i.toNat + (15 : BitVec 4).toNat - 1 ≤ 0xFFF ∧
      start.params.drawEdge = .clip ∧
      ∀ cx cy, ({ startAt 0x300 with params := { start.params with drawEdge := .fault } } : State).SpriteCovers 0 0 1
        cx cy → cx ≤ 63 ∧ cy ≤ 31 := by
  refine ⟨rfl, by decide, rfl, ?_⟩
  rintro cx cy ⟨r, hr, c, hc, rfl, rfl, -⟩
  have h0 : (({ startAt 0x300 with params := { start.params with drawEdge := .fault } } : State).v[(0 : RegIdx).val]).toNat
      = 0 := rfl
  have h1 : (1 : BitVec 4).toNat = 1 := rfl
  omega

theorem witness_DrawOffTheDisplayFaultsUnderFaultPolicy :
    (cornerSprite .fault).params.drawEdge = .fault ∧
      (cornerSprite .fault).i.toNat + (1 : BitVec 4).toNat - 1 ≤ 0xFFF ∧
      ∃ cx cy, (cornerSprite .fault).SpriteCovers 1 2 1 cx cy ∧ (63 < cx ∨ 31 < cy) :=
  ⟨rfl, by decide, 64, 31, ⟨0, by decide, 1, by decide, by decide, by decide, by decide⟩, .inl (by decide)⟩

theorem witness_DrawingTwiceRestoresTheDisplay :
    (1 : RegIdx) ≠ 15 ∧ (2 : RegIdx) ≠ 15 ∧ ∃ t, exec (.drw 1 2 1) (cornerSprite .clip) = .next t ∧ t.halted = false :=
  ⟨by decide, by decide, _, rfl, rfl⟩

theorem witness_KeySkipsFollowTheKey : (10 : Fin 16).val = (start.setV 5 0x1A).v[5].toNat % 16 := by decide

/-- No key, and two keys, the lowest and the highest, under the default pick and the other. -/
theorem witness_WaitForKeyStallsOrTakesAKey :
    (∀ k : Fin 16, start.key[k.val] = false) ∧
    (∀ j : Fin 16, ((start.setKey 0 true).setKey 15 true).key[j.val] = true →
      (start.params.keyPick = .lowest → 0 ≤ j) ∧ (start.params.keyPick = .highest → j ≤ 0)) ∧
    ∀ j : Fin 16, ((start.setKey 0 true).setKey 15 true).key[j.val] = true →
      (KeyPick.highest = .lowest → 15 ≤ j) ∧ (KeyPick.highest = .highest → j ≤ 15) := by decide

theorem witness_SetTimersThenCountInTheSameCycle :
    (start.withFetchWord 16 0xF315).Fetches (encodeWord (.ldDtVx 3)) ∧
      (start.withFetchWord 16 0xF318).Fetches (encodeWord (.ldStVx 3)) :=
  ⟨start_fetches 0xF315 (by decide), start_fetches 0xF318 (by decide)⟩

theorem witness_FinishedProgramStaysFinished : (start.withFetchWord 16 0x1200).Finished :=
  ⟨0x200, rfl, start_fetches 0x1200 (by decide)⟩

end Sys2Proof.Tests
end

section
/-! PROOF. Control flow: the encoding and the effect of 1NNN (41_control_flow.md R101). -/

open Sys2Proof Sys2Proof.Machine

namespace Sys2Proof.Proofs

/-- Only the family digit 1 selects the jump, and the other twelve bits are its operand (30_encoding.md R63). -/
theorem decodeWord_wordNNN_one (nnn : BitVec 12) : decodeWord (wordNNN 0x1 nnn) = .ok (.jp nnn) := by
  have hop : fieldOp (wordNNN 0x1 nnn) = 0x1#4 := fieldOp_wordNNN 0x1 nnn
  simp only [decodeWord, hop, fieldNNN_wordNNN]

/-- The jump's arm of the dispatcher: it only sets `pc`, and takes no fault. -/
theorem exec_jp (nnn : BitVec 12) (s : State) : exec (.jp nnn) s = .next (s.setPc (zextNNN nnn)) := rfl

/-- Settles O30: the word's fields select the jump, and `setPc` to the zero-extended operand is the written-out state. -/
theorem jumpSetsThePc : Obligations.JumpSetsThePc := by
  unfold Obligations.JumpSetsThePc
  intro nnn s
  constructor
  · exact decodeWord_wordNNN_one nnn
  · exact exec_jp nnn s

end Sys2Proof.Proofs
end

section
/-! PROOF. Loads and ALU: the encodings and the effects of 6XNN, 7XNN, 8XY0 to 8XY4, 8XY6 and 8XYE (42_alu.md R121 to
R127, R129, R131). -/

open Sys2Proof Sys2Proof.Machine

namespace Sys2Proof.Proofs

/-! ### Encoding -/

/-- The decoder reads back what the encoder writes. The rows fall into groups by what selects them: all 16 bits, the
family digit alone, or a digit or byte within the families 8, E and F (30_encoding.md R63, R64). -/
theorem decodeWord_encodeWord (i : Instr) : decodeWord (encodeWord i) = .ok i := by
  cases i with
  | cls | ret => rfl
  | jp | call | ldI | jpV0 | seImm | sneImm | ldImm | addImm | rnd | seReg | sneReg | drw =>
    simp [encodeWord, decodeWord]
  | ldReg | or | and | xor | addReg | sub | shr | subn | shl => simp [encodeWord, decodeWord, decodeFamily8]
  | skp | sknp => simp [encodeWord, decodeWord, decodeFamilyE]
  | ldVxDt | ldVxK | ldDtVx | ldStVx | addIVx | ldFVx | ldBVx | stRegs | ldRegs =>
    simp [encodeWord, decodeWord, decodeFamilyF]

/-! ### Bytes as the numbers of 42_alu.md -/

theorem byte_add_eq_ofNat (a b : Byte) : a + b = BitVec.ofNat 8 ((a.toNat + b.toNat) % 256) :=
  BitVec.eq_of_toNat_eq (by simp [BitVec.toNat_add])

theorem byte_shiftRight_one_eq_ofNat (a : Byte) : a >>> 1 = BitVec.ofNat 8 (a.toNat / 2) := by
  have hmod : a.toNat / 2 % 256 = a.toNat / 2 := by omega
  exact BitVec.eq_of_toNat_eq (by simp [Nat.shiftRight_eq_div_pow, hmod])

theorem byte_shiftLeft_one_eq_ofNat (a : Byte) : a <<< 1 = BitVec.ofNat 8 (2 * a.toNat % 256) :=
  BitVec.eq_of_toNat_eq (by simp [Nat.shiftLeft_eq, Nat.mul_comm])

/-- The bit a right shift moves out is the parity of the byte (42_alu.md R129). -/
theorem flagByte_shrFlag (a : Byte) : flagByte (shrFlag a) = BitVec.ofNat 8 (a.toNat % 2) := by
  have hbit : shrFlag a = decide (a.toNat % 2 = 1) := Nat.testBit_zero a.toNat
  rw [hbit, flagByte_decide]
  obtain h | h := Nat.mod_two_eq_zero_or_one a.toNat <;> simp [h]

/-- The bit a left shift moves out says whether the byte is at least 128 (42_alu.md R131). -/
theorem flagByte_shlFlag (a : Byte) : flagByte (shlFlag a) = if 128 ≤ a.toNat then 1 else 0 := by
  have hbit : shlFlag a = decide (128 ≤ a.toNat) := (BitVec.msb_eq_getLsbD_last a).symm.trans (BitVec.msb_eq_decide a)
  rw [hbit, flagByte_decide]

/-! ### Effects -/

/-- The whole next state of an instruction that writes one register and no flag. -/
theorem setV_advance (s : State) (x : RegIdx) (b : Byte) :
    (s.setV x b).advance = { s with v := s.v.set x.val b x.isLt, pc := s.pc + 2 } := rfl

/-- The whole next state of an instruction that writes the flag first: `w` is the register file after the flag write,
and VX is computed from it (42_alu.md R120). -/
theorem flagThen_advance (s : State) {c : Bool} (x : RegIdx) {w : Regs} (hw : w = s.v.set 15 (flagByte c))
    (result : Regs → Byte) :
    (s.flagThen c x fun t => result t.v).advance =
      { s with v := w.set x.val (result w) x.isLt, pc := s.pc + 2 } := by
  subst hw
  rfl

section
variable (x y : RegIdx) (s : State)

theorem exec_ldImm (nn : Byte) : exec (.ldImm x nn) s =
    .next { s with v := s.v.set x.val nn x.isLt, pc := s.pc + 2 } :=
  congrArg Host.Outcome.next (setV_advance s x _)

theorem exec_addImm (nn : Byte) : exec (.addImm x nn) s =
    .next { s with v := s.v.set x.val (s.v[x.val] + nn) x.isLt, pc := s.pc + 2 } :=
  congrArg Host.Outcome.next (setV_advance s x _)

theorem exec_ldReg : exec (.ldReg x y) s =
    .next { s with v := s.v.set x.val s.v[y.val] x.isLt, pc := s.pc + 2 } :=
  congrArg Host.Outcome.next (setV_advance s x _)

theorem exec_or : exec (.or x y) s =
    .next { s with v := s.v.set x.val (s.v[x.val] ||| s.v[y.val]) x.isLt, pc := s.pc + 2 } :=
  congrArg Host.Outcome.next (setV_advance s x _)

theorem exec_and : exec (.and x y) s =
    .next { s with v := s.v.set x.val (s.v[x.val] &&& s.v[y.val]) x.isLt, pc := s.pc + 2 } :=
  congrArg Host.Outcome.next (setV_advance s x _)

theorem exec_xor : exec (.xor x y) s =
    .next { s with v := s.v.set x.val (s.v[x.val] ^^^ s.v[y.val]) x.isLt, pc := s.pc + 2 } :=
  congrArg Host.Outcome.next (setV_advance s x _)

theorem exec_addReg {w : Regs} (hw : w = s.v.set 15 (flagByte (carryFlag s.v[x.val] s.v[y.val]))) :
    exec (.addReg x y) s = .next { s with v := w.set x.val (w[x.val] + w[y.val]) x.isLt, pc := s.pc + 2 } :=
  congrArg Host.Outcome.next (flagThen_advance s x hw fun v => v[x.val] + v[y.val])

theorem exec_shr {w : Regs} (hw : w = s.v.set 15 (flagByte (shrFlag s.v[x.val]))) :
    exec (.shr x y) s = .next { s with v := w.set x.val (w[x.val] >>> 1) x.isLt, pc := s.pc + 2 } :=
  congrArg Host.Outcome.next (flagThen_advance s x hw fun v => v[x.val] >>> 1)

theorem exec_shl {w : Regs} (hw : w = s.v.set 15 (flagByte (shlFlag s.v[x.val]))) :
    exec (.shl x y) s = .next { s with v := w.set x.val (w[x.val] <<< 1) x.isLt, pc := s.pc + 2 } :=
  congrArg Host.Outcome.next (flagThen_advance s x hw fun v => v[x.val] <<< 1)

end

/-! ### The statements -/

/-- Settles O36: the words decode by the round trip, the loads are register writes, and the wrapping byte sum is the sum
mod 256. -/
theorem loadsAndAddImmediate : Obligations.LoadsAndAddImmediate := by
  unfold Obligations.LoadsAndAddImmediate
  intro x y nn s
  refine ⟨decodeWord_encodeWord (.ldImm x nn), decodeWord_encodeWord (.addImm x nn),
    decodeWord_encodeWord (.ldReg x y), exec_ldImm x s nn, ?_, exec_ldReg x y s⟩
  rw [exec_addImm, byte_add_eq_ofNat]

/-- Settles O37: the words decode by the round trip, and each effect is one register write. -/
theorem bitwiseLogicLeavesTheFlag : Obligations.BitwiseLogicLeavesTheFlag := by
  unfold Obligations.BitwiseLogicLeavesTheFlag
  intro x y s
  exact ⟨decodeWord_encodeWord (.or x y), decodeWord_encodeWord (.and x y), decodeWord_encodeWord (.xor x y),
    exec_or x y s, exec_and x y s, exec_xor x y s⟩

/-- Settles O38: `w` is the register file after the carry is written, and the sum is taken from `w`. -/
theorem addWritesCarryThenSum : Obligations.AddWritesCarryThenSum := by
  unfold Obligations.AddWritesCarryThenSum
  intro x y s w hw
  have hflag : w = s.v.set 15 (flagByte (carryFlag s.v[x.val] s.v[y.val])) := by
    rw [carryFlag, flagByte_decide]
    exact hw
  refine ⟨decodeWord_encodeWord (.addReg x y), ?_⟩
  rw [exec_addReg x y s hflag, byte_add_eq_ofNat]

/-- Settles O40: the bit moved out is the parity of VX for the right shift and `128 ≤ VX` for the left one, and the
shift of the register file after that write is a division or a doubling. -/
theorem shiftsWriteTheBitMovedOutThenShift : Obligations.ShiftsWriteTheBitMovedOutThenShift := by
  unfold Obligations.ShiftsWriteTheBitMovedOutThenShift
  intro x y s
  refine ⟨decodeWord_encodeWord (.shr x y), decodeWord_encodeWord (.shl x y), fun w hw => ?_, fun w hw => ?_⟩
  · rw [← flagByte_shrFlag] at hw
    rw [exec_shr x y s hw, byte_shiftRight_one_eq_ofNat]
  · rw [← flagByte_shlFlag] at hw
    rw [exec_shl x y s hw, byte_shiftLeft_one_eq_ofNat]

end Sys2Proof.Proofs
end

section
/-! PROOF. Index register: the encoding and the effect of ANNN (43_index_memory.md R140). -/

open Sys2Proof Sys2Proof.Machine

namespace Sys2Proof.Proofs

/-- The whole next state of an instruction that writes the index register and then moves on. -/
theorem setI_advance (s : State) (a : Word) : (s.setI a).advance = { s with i := a, pc := s.pc + 2 } := rfl

/-- ANNN completes in every state: it has no fault arm, and writes only the zero-extended operand and `pc`
(43_index_memory.md R140). -/
theorem exec_ldI (nnn : BitVec 12) (s : State) :
    exec (.ldI nnn) s = .next { s with i := nnn.zeroExtend 16, pc := s.pc + 2 } :=
  congrArg Host.Outcome.next (setI_advance s (zextNNN nnn))

/-- Settles O41: the word decodes by the round trip, and the effect is one write of the index register. -/
theorem loadIndexSetsI : Obligations.LoadIndexSetsI := by
  unfold Obligations.LoadIndexSetsI
  intro nnn s
  exact ⟨decodeWord_encodeWord (.ldI nnn), exec_ldI nnn s⟩

end Sys2Proof.Proofs
end

section
/-! PROOF. Display: the encoding and the effect of 00E0 (45_display.md R170). -/

open Sys2Proof Sys2Proof.Machine

namespace Sys2Proof.Proofs

/-- Every cell of the cleared framebuffer is dark, the coordinates off the display included. -/
theorem cell_replicate_zero (x y : Nat) : Framebuffer.cell (Vector.replicate 32 0) x y = false := by
  by_cases hy : y < 32
  · simp [Framebuffer.cell, hy]
  · exact Framebuffer.cell_off _ (.inr (by omega))

/-- 00E0 completes in every state: it has no fault arm, and writes only the framebuffer, `redraw` and `pc`
(45_display.md R170). -/
theorem exec_cls (s : State) :
    exec .cls s = .next { s with fb := Vector.replicate 32 0, redraw := true, pc := s.pc + 2 } := rfl

/-- Settles O51: the word decodes by the round trip, and the framebuffer of the whole next state is dark in every
cell. -/
theorem clearDisplayZeroesEveryCell : Obligations.ClearDisplayZeroesEveryCell := by
  unfold Obligations.ClearDisplayZeroesEveryCell
  exact ⟨decodeWord_encodeWord .cls, fun s => ⟨_, exec_cls s, cell_replicate_zero, rfl, rfl⟩⟩

end Sys2Proof.Proofs
end

section
/-! PROOF. Timers: the encoding and the effect of FX07, and the CYCLE that runs it (46_keypad_timers.md R193). -/

open Sys2Proof Sys2Proof.Machine

namespace Sys2Proof.Proofs

/-- A CYCLE whose instruction completes ends with the timer post-step on the state the instruction left, and reports
`Ok` (40_cycle.md R80, R87). -/
theorem step_eq_postStep {s t : State} {w : Word} {i : Instr} (h : s.Fetches w) (hd : decodeWord w = .ok i)
    (he : exec i s = .next t) (ht : t.halted = false) : step s = .next (t.postStep.report .ok) := by
  rw [h.step_eq hd he, State.finishCycle, ht, if_neg Bool.false_ne_true]

/-- FX07 completes in every state: it has no fault arm, and writes only VX and `pc` (46_keypad_timers.md R193). -/
theorem exec_ldVxDt (x : RegIdx) (s : State) :
    exec (.ldVxDt x) s = .next { s with v := s.v.set x.val s.dt x.isLt, pc := s.pc + 2 } :=
  congrArg Host.Outcome.next (setV_advance s x s.dt)

/-- The premise of the CYCLE clause is met with a DT that counts down: the core of the example of 46_keypad_timers.md
R193, about to run F307 with `DT = 0x2C`. -/
theorem reset_fetches_ldVxDt :
    ({ State.reset with dt := 0x2C }.withFetchWord 16 0xF307).Fetches (wordXNN 0xF 3 0x07) ∧
      ({ State.reset with dt := 0x2C }.withFetchWord 16 0xF307).dt = 0x2C :=
  ⟨⟨⟨rfl, rfl⟩, by decide, by decide, by decide⟩, rfl⟩

/-- Settles O57: the word decodes by the round trip, and the post-step that follows the effect counts DT down but keeps
VX, which holds the DT of before. -/
theorem readDelayTimerCopiesDt : Obligations.ReadDelayTimerCopiesDt := by
  unfold Obligations.ReadDelayTimerCopiesDt
  intro x s
  have hd : decodeWord (wordXNN 0xF x 0x07) = .ok (.ldVxDt x) := decodeWord_encodeWord (.ldVxDt x)
  have he := exec_ldVxDt x s
  refine ⟨hd, he, fun h => ⟨_, step_eq_postStep h hd he h.running.notHalted, ?_, ?_⟩⟩
  · exact Vector.getElem_set_self x.isLt
  · exact countDown_toNat s.dt

end Sys2Proof.Proofs
end

section
/-! PROOF. Encoding: the round trips of decoder and encoder, and the decoder held against the mask-and-match map
(30_encoding.md R60 to R65). -/

open Sys2Proof Sys2Proof.Machine

namespace Sys2Proof.Proofs

/-! ### From words to instructions and back -/

/-- The two bytes of a word decode as the word does, and the bytes that follow are left. -/
theorem decodeBytes_cons_cons (high low : Byte) (rest : List Byte) :
    decodeBytes (high :: low :: rest) = (decodeWord (wordOfBytes high low)).map fun i => (i, rest) := rfl

/-- Settles O24: the two encoded bytes make the instruction's word again, and that word decodes to the instruction. -/
theorem decodeOfEncodeIsTheInstruction : Obligations.DecodeOfEncodeIsTheInstruction := by
  unfold Obligations.DecodeOfEncodeIsTheInstruction
  intro i rest
  show decodeBytes (highByte (encodeWord i) :: lowByte (encodeWord i) :: rest) = _
  rw [decodeBytes_cons_cons, wordOfBytes_highByte_lowByte, decodeWord_encodeWord]
  rfl

section
variable {w : Word} {op : BitVec 4} (hop : fieldOp w = op)
include hop

theorem wordNNN_of_fieldOp : wordNNN op (fieldNNN w) = w := hop ▸ wordNNN_fields w

theorem wordXNN_of_fieldOp : wordXNN op (fieldX w) (fieldNN w) = w := hop ▸ wordXNN_fields w

theorem wordXYN_of_fieldOp : wordXYN op (fieldX w) (fieldY w) (fieldN w) = w := hop ▸ wordXYN_fields w

theorem wordXNN_of_fieldNN {nn : Byte} (h : fieldNN w = nn) : wordXNN op (fieldX w) nn = w :=
  h ▸ wordXNN_of_fieldOp hop

theorem wordXYN_of_fieldN {n : BitVec 4} (h : fieldN w = n) : wordXYN op (fieldX w) (fieldY w) n = w :=
  h ▸ wordXYN_of_fieldOp hop

end

section
variable {w : Word} {i : Instr}

theorem encodeWord_of_decodeFamily0 (h : decodeFamily0 w = .ok i) : encodeWord i = w := by
  unfold decodeFamily0 at h
  split at h
  · next hw => cases h; exact hw.symm
  · split at h
    · next hw => cases h; exact hw.symm
    · cases h

/-- In family 8 the last digit of the word is the one the encoder writes for the row it selects. -/
theorem encodeWord_of_decodeFamily8 (hop : fieldOp w = 0x8) (h : decodeFamily8 w = .ok i) : encodeWord i = w := by
  unfold decodeFamily8 at h
  split at h <;> cases h <;> exact wordXYN_of_fieldN hop ‹_›

/-- In family E the low byte of the word is the one the encoder writes for the row it selects. -/
theorem encodeWord_of_decodeFamilyE (hop : fieldOp w = 0xE) (h : decodeFamilyE w = .ok i) : encodeWord i = w := by
  unfold decodeFamilyE at h
  split at h <;> cases h <;> exact wordXNN_of_fieldNN hop ‹_›

/-- In family F the low byte of the word is the one the encoder writes for the row it selects. -/
theorem encodeWord_of_decodeFamilyF (hop : fieldOp w = 0xF) (h : decodeFamilyF w = .ok i) : encodeWord i = w := by
  unfold decodeFamilyF at h
  split at h <;> cases h <;> exact wordXNN_of_fieldNN hop ‹_›

end

/-- Families 5 and 9 accept a last digit 0 only. -/
theorem encodeWord_of_lastDigit {w : Word} {i j : Instr} (hj : fieldN w = 0x0 → encodeWord j = w)
    (h : (if fieldN w = 0x0 then .ok j else .error (.unknownOpcode w) : Except DecodeReject Instr) = .ok i) :
    encodeWord i = w := by
  split at h
  · next hn => cases h; exact hj hn
  · cases h

/-- Settles O25: in each family (30_encoding.md R63) the fields the decoder read, written back, make the word again. -/
theorem encodeOfDecodeIsTheWord : Obligations.EncodeOfDecodeIsTheWord := by
  unfold Obligations.EncodeOfDecodeIsTheWord
  intro w i h
  rcases nibble_cases (fieldOp w) with hop | hop | hop | hop | hop | hop | hop | hop | hop | hop | hop | hop | hop |
    hop | hop | hop <;> simp only [decodeWord, hop] at h
  · exact encodeWord_of_decodeFamily0 h
  · cases h; exact wordNNN_of_fieldOp hop
  · cases h; exact wordNNN_of_fieldOp hop
  · cases h; exact wordXNN_of_fieldOp hop
  · cases h; exact wordXNN_of_fieldOp hop
  · exact encodeWord_of_lastDigit (wordXYN_of_fieldN hop) h
  · cases h; exact wordXNN_of_fieldOp hop
  · cases h; exact wordXNN_of_fieldOp hop
  · exact encodeWord_of_decodeFamily8 hop h
  · exact encodeWord_of_lastDigit (wordXYN_of_fieldN hop) h
  · cases h; exact wordNNN_of_fieldOp hop
  · cases h; exact wordNNN_of_fieldOp hop
  · cases h; exact wordXNN_of_fieldOp hop
  · cases h; exact wordXYN_of_fieldOp hop
  · exact encodeWord_of_decodeFamilyE hop h
  · exact encodeWord_of_decodeFamilyF hop h

/-- Settles O29: each sample word is the one the encoder writes for its digits, and 0x00E1 is neither row of family 0. -/
theorem sampleWordsDecode : Obligations.SampleWordsDecode :=
  ⟨decodeWord_encodeWord .ret, decodeWord_encodeWord (.jp 0xABC), decodeWord_encodeWord (.seImm 0xA 0x2B),
    decodeWord_encodeWord (.sneImm 0xA 0x2B), decodeWord_encodeWord (.ldImm 0xA 0x7F),
    decodeWord_encodeWord (.addImm 1 0x05), decodeWord_encodeWord (.sneReg 1 2), decodeWord_encodeWord (.ldI 0x2F0),
    decodeWord_encodeWord (.jpV0 0x4FF), decodeWord_encodeWord (.call 0xABC), decodeWord_encodeWord (.seReg 1 2),
    decodeWord_encodeWord (.addReg 1 2), decodeWord_encodeWord (.stRegs 3), decodeWord_encodeWord (.rnd 3 0x0F),
    decodeWord_encodeWord (.drw 1 2 3), decodeWord_encodeWord (.sknp 5), decodeWord_encodeWord (.ldVxK 1), rfl⟩

/-! ### The map of masks and patterns -/

/-- Settles O27: two rows that fit one word agree on the digits that both fix, and in the map only a row with itself
does. -/
theorem noTwoRowsFitOneWord : Obligations.NoTwoRowsFitOneWord := by
  unfold Obligations.NoTwoRowsFitOneWord
  intro w r q hr hq hrw hqw
  have key : ∀ r ∈ opcodeMap, ∀ q ∈ opcodeMap, r.pattern &&& q.mask = q.pattern &&& r.mask → r = q := by decide
  have hrp : w &&& r.mask = r.pattern := beq_iff_eq.1 hrw
  have hqp : w &&& q.mask = q.pattern := beq_iff_eq.1 hqw
  refine key r hr q hq ?_
  rw [← hrp, ← hqp, BitVec.and_assoc, BitVec.and_assoc, BitVec.and_comm r.mask]

/-- The words that are no instruction, by their fields: the list of 30_encoding.md R65. -/
abbrev Unlisted (w : Word) : Prop :=
  (fieldOp w = 0x0 ∧ w ≠ 0x00E0 ∧ w ≠ 0x00EE) ∨
  (fieldOp w = 0x5 ∧ fieldN w ≠ 0) ∨
  (fieldOp w = 0x8 ∧ fieldN w ∈ [0x8, 0x9, 0xA, 0xB, 0xC, 0xD, 0xF]) ∨
  (fieldOp w = 0x9 ∧ fieldN w ≠ 0) ∨
  (fieldOp w = 0xE ∧ fieldNN w ∉ [0x9E, 0xA1]) ∨
  (fieldOp w = 0xF ∧ fieldNN w ∉ [0x07, 0x0A, 0x15, 0x18, 0x1E, 0x29, 0x33, 0x55, 0x65])

/-- `r` accepts the word `w` unless `p` holds, and then refuses it by its name. -/
def AcceptsUnless (w : Word) (p : Prop) (r : Except DecodeReject Instr) : Prop :=
  (∃ i, r = .ok i) ∧ ¬p ∨ r = .error (.unknownOpcode w) ∧ p

@[simp] theorem acceptsUnless_ok {w : Word} {p : Prop} {i : Instr} : AcceptsUnless w p (.ok i) ↔ ¬p := by
  simp [AcceptsUnless]

@[simp] theorem acceptsUnless_unknown {w : Word} {p : Prop} :
    AcceptsUnless w p (.error (.unknownOpcode w)) ↔ p := by
  simp [AcceptsUnless]

theorem AcceptsUnless.of_iff {w : Word} {p q : Prop} {r : Except DecodeReject Instr} (h : AcceptsUnless w p r)
    (hqp : q ↔ p) : AcceptsUnless w q r := by
  rwa [hqp]

section
variable (w : Word)

theorem decodeFamily0_accepts : AcceptsUnless w (w ≠ 0x00E0 ∧ w ≠ 0x00EE) (decodeFamily0 w) := by
  unfold decodeFamily0
  split
  · simp_all
  · split <;> simp_all

/-- Families 5 and 9: the last digit has to be 0. -/
theorem lastDigit_accepts (i : Instr) :
    AcceptsUnless w (fieldN w ≠ 0) (if fieldN w = 0x0 then .ok i else .error (.unknownOpcode w)) := by
  split <;> simp_all

theorem decodeFamily8_accepts :
    AcceptsUnless w (fieldN w ∈ [0x8, 0x9, 0xA, 0xB, 0xC, 0xD, 0xF]) (decodeFamily8 w) := by
  rcases nibble_cases (fieldN w) with h | h | h | h | h | h | h | h | h | h | h | h | h | h | h | h <;>
    simp [decodeFamily8, h]

theorem decodeFamilyE_accepts : AcceptsUnless w (fieldNN w ∉ [0x9E, 0xA1]) (decodeFamilyE w) := by
  unfold decodeFamilyE
  split <;> simp_all

theorem decodeFamilyF_accepts :
    AcceptsUnless w (fieldNN w ∉ [0x07, 0x0A, 0x15, 0x18, 0x1E, 0x29, 0x33, 0x55, 0x65]) (decodeFamilyF w) := by
  unfold decodeFamilyF
  split <;> simp_all

/-- The decoder accepts every word but the listed ones (30_encoding.md R63, R65): six families have a condition of their
own, and the ten that only the first digit selects have none. -/
theorem decodeWord_accepts : AcceptsUnless w (Unlisted w) (decodeWord w) := by
  rcases nibble_cases (fieldOp w) with hop | hop | hop | hop | hop | hop | hop | hop | hop | hop | hop | hop | hop |
    hop | hop | hop <;> simp only [decodeWord, hop]
  · exact (decodeFamily0_accepts w).of_iff (by simp [Unlisted, hop])
  · simp [Unlisted, hop]
  · simp [Unlisted, hop]
  · simp [Unlisted, hop]
  · simp [Unlisted, hop]
  · exact (lastDigit_accepts w _).of_iff (by simp [Unlisted, hop])
  · simp [Unlisted, hop]
  · simp [Unlisted, hop]
  · exact (decodeFamily8_accepts w).of_iff (by simp [Unlisted, hop])
  · exact (lastDigit_accepts w _).of_iff (by simp [Unlisted, hop])
  · simp [Unlisted, hop]
  · simp [Unlisted, hop]
  · simp [Unlisted, hop]
  · simp [Unlisted, hop]
  · exact (decodeFamilyE_accepts w).of_iff (by simp [Unlisted, hop])
  · exact (decodeFamilyF_accepts w).of_iff (by simp [Unlisted, hop])

end

/-! ### The map of masks and patterns -/

/-- A mask of a row keeps the digits that select the row, and these are its pattern's. -/
theorem fieldOp_of_mask {w p : Word} (h : w &&& 0xF000 = p) : fieldOp w = fieldOp p := by
  rw [← h, ← wordNNN_fields w, Laws.wordNNN_mask, fieldOp_wordNNN, fieldOp_wordNNN]

theorem fieldOp_fieldN_of_mask {w p : Word} (h : w &&& 0xF00F = p) :
    fieldOp w = fieldOp p ∧ fieldN w = fieldN p := by
  rw [← h, ← wordXYN_fields w, Laws.wordXYN_mask]
  simp

theorem fieldOp_fieldNN_of_mask {w p : Word} (h : w &&& 0xF0FF = p) :
    fieldOp w = fieldOp p ∧ fieldNN w = fieldNN p := by
  rw [← h, ← wordXNN_fields w, Laws.wordXNN_maskX]
  simp

/-- The four masks of the map, and the digits that the rows with each mask fix. -/
theorem opcodeMap_masks : ∀ r ∈ opcodeMap,
    r.mask = 0xFFFF ∧ r.pattern ∈ [0x00E0, 0x00EE] ∨
    r.mask = 0xF000 ∧ fieldOp r.pattern ∈ [0x1, 0x2, 0x3, 0x4, 0x6, 0x7, 0xA, 0xB, 0xC, 0xD] ∨
    r.mask = 0xF00F ∧ fieldOp r.pattern ∈ [0x5, 0x9] ∧ fieldN r.pattern = 0 ∨
    r.mask = 0xF00F ∧ fieldOp r.pattern = 0x8 ∧ fieldN r.pattern ∉ [0x8, 0x9, 0xA, 0xB, 0xC, 0xD, 0xF] ∨
    r.mask = 0xF0FF ∧ fieldOp r.pattern = 0xE ∧ fieldNN r.pattern ∈ [0x9E, 0xA1] ∨
    r.mask = 0xF0FF ∧ fieldOp r.pattern = 0xF ∧
      fieldNN r.pattern ∈ [0x07, 0x0A, 0x15, 0x18, 0x1E, 0x29, 0x33, 0x55, 0x65] := by
  simp [opcodeMap, opcodeRowsFirst, opcodeRowsSecond, fieldOp, fieldN, fieldNN]

/-- A word that a row fits is not a listed one, by the digits the row fixes. -/
theorem not_unlisted_of_fits {w : Word} {r : OpcodeRow} (hr : r ∈ opcodeMap) (h : r.fits w = true) : ¬Unlisted w := by
  have hw : w &&& r.mask = r.pattern := beq_iff_eq.1 h
  obtain ⟨hm, hp⟩ | ⟨hm, hop⟩ | ⟨hm, hop, hn⟩ | ⟨hm, hop, hn⟩ | ⟨hm, hop, hnn⟩ | ⟨hm, hop, hnn⟩ :=
    opcodeMap_masks r hr <;> rw [hm] at hw
  · rw [← hw, show (0xFFFF : Word) = BitVec.allOnes 16 from rfl, BitVec.and_allOnes] at hp
    simp only [List.mem_cons, List.not_mem_nil, or_false] at hp
    rcases hp with rfl | rfl <;> simp [Unlisted, fieldOp]
  · rw [← fieldOp_of_mask hw] at hop
    simp only [List.mem_cons, List.not_mem_nil, or_false] at hop
    rcases hop with hop | hop | hop | hop | hop | hop | hop | hop | hop | hop <;> simp [Unlisted, hop]
  · obtain ⟨h1, h2⟩ := fieldOp_fieldN_of_mask hw
    rw [← h1] at hop
    rw [← h2] at hn
    simp only [List.mem_cons, List.not_mem_nil, or_false] at hop
    rcases hop with hop | hop <;> simp [Unlisted, hop, hn]
  · obtain ⟨h1, h2⟩ := fieldOp_fieldN_of_mask hw
    rw [← h1] at hop
    rw [← h2] at hn
    simpa [Unlisted, hop] using hn
  · obtain ⟨h1, h2⟩ := fieldOp_fieldNN_of_mask hw
    rw [← h1] at hop
    rw [← h2] at hnn
    simpa [Unlisted, hop] using not_not_intro hnn
  · obtain ⟨h1, h2⟩ := fieldOp_fieldNN_of_mask hw
    rw [← h1] at hop
    rw [← h2] at hnn
    simpa [Unlisted, hop] using not_not_intro hnn

/-- The encoder writes a word of the map for every instruction. -/
theorem wordWf_encodeWord : ∀ i : Instr, wordWf (encodeWord i) = true
  | .cls => Laws.EncodedWordFitsMap.cls
  | .ret => Laws.EncodedWordFitsMap.ret
  | .jp nnn => Laws.EncodedWordFitsMap.jp nnn
  | .call nnn => Laws.EncodedWordFitsMap.call nnn
  | .seImm x nn => Laws.EncodedWordFitsMap.seImm x nn
  | .sneImm x nn => Laws.EncodedWordFitsMap.sneImm x nn
  | .seReg x y => Laws.EncodedWordFitsMap.seReg x y
  | .sneReg x y => Laws.EncodedWordFitsMap.sneReg x y
  | .ldImm x nn => Laws.EncodedWordFitsMap.ldImm x nn
  | .addImm x nn => Laws.EncodedWordFitsMap.addImm x nn
  | .ldReg x y => Laws.EncodedWordFitsMap.ldReg x y
  | .or x y => Laws.EncodedWordFitsMap.or x y
  | .and x y => Laws.EncodedWordFitsMap.and x y
  | .xor x y => Laws.EncodedWordFitsMap.xor x y
  | .addReg x y => Laws.EncodedWordFitsMap.addReg x y
  | .sub x y => Laws.EncodedWordFitsMap.sub x y
  | .shr x y => Laws.EncodedWordFitsMap.shr x y
  | .subn x y => Laws.EncodedWordFitsMap.subn x y
  | .shl x y => Laws.EncodedWordFitsMap.shl x y
  | .ldI nnn => Laws.EncodedWordFitsMap.ldI nnn
  | .jpV0 nnn => Laws.EncodedWordFitsMap.jpV0 nnn
  | .rnd x nn => Laws.EncodedWordFitsMap.rnd x nn
  | .drw x y n => Laws.EncodedWordFitsMap.drw x y n
  | .skp x => Laws.EncodedWordFitsMap.skp x
  | .sknp x => Laws.EncodedWordFitsMap.sknp x
  | .ldVxDt x => Laws.EncodedWordFitsMap.ldVxDt x
  | .ldVxK x => Laws.EncodedWordFitsMap.ldVxK x
  | .ldDtVx x => Laws.EncodedWordFitsMap.ldDtVx x
  | .ldStVx x => Laws.EncodedWordFitsMap.ldStVx x
  | .addIVx x => Laws.EncodedWordFitsMap.addIVx x
  | .ldFVx x => Laws.EncodedWordFitsMap.ldFVx x
  | .ldBVx x => Laws.EncodedWordFitsMap.ldBVx x
  | .stRegs x => Laws.EncodedWordFitsMap.stRegs x
  | .ldRegs x => Laws.EncodedWordFitsMap.ldRegs x

/-- The map and the decoder leave out the same words. -/
theorem wordWf_eq_false_iff (w : Word) : wordWf w = false ↔ Unlisted w := by
  obtain ⟨⟨i, hi⟩, hu⟩ | ⟨-, hu⟩ := decodeWord_accepts w
  · have hw : wordWf w = true := encodeOfDecodeIsTheWord w i hi ▸ wordWf_encodeWord i
    simp [hw, hu]
  · rw [iff_true_right hu, wordWf, List.any_eq_false]
    exact fun r hr hf => not_unlisted_of_fits hr hf hu

/-- Settles O26: the words the decoder refuses are the unlisted ones, and so are the words the map leaves out. -/
theorem decoderAcceptsExactlyTheMap : Obligations.DecoderAcceptsExactlyTheMap := by
  unfold Obligations.DecoderAcceptsExactlyTheMap
  intro w
  have hu := wordWf_eq_false_iff w
  obtain ⟨hi, hn⟩ | ⟨he, hn⟩ := decodeWord_accepts w
  · exact ⟨fun _ => hi, fun h => absurd (hu.1 h) hn⟩
  · exact ⟨fun h => absurd (hu.2 hn) (by simp [h]), fun _ => he⟩

/-! ### The fields in the arithmetic of the word -/

theorem fieldOp_toNat (w : Word) : (fieldOp w).toNat = w.toNat / 4096 := by
  have hw := w.isLt
  rw [fieldOp, BitVec.extractLsb'_toNat, Nat.shiftRight_eq_div_pow]
  omega

theorem fieldN_toNat (w : Word) : (fieldN w).toNat = w.toNat % 16 := by simp [fieldN]

theorem fieldNN_toNat (w : Word) : (fieldNN w).toNat = w.toNat % 256 := by simp [fieldNN]

/-- Settles O28: the unlisted words, their fields written as quotients and remainders. -/
theorem unknownWordsAreTheListedOnes : Obligations.UnknownWordsAreTheListedOnes := by
  unfold Obligations.UnknownWordsAreTheListedOnes
  intro w
  rw [wordWf_eq_false_iff]
  simp [Unlisted, ← fieldOp_toNat, ← fieldN_toNat, ← fieldNN_toNat, ← BitVec.toNat_inj]

end Sys2Proof.Proofs
end

section
/-! PROOF. Execution: the two ways an instruction can answer, said once for all 34 rows, and what follows from them about
faults, `pc` and the frame of each instruction (40_cycle.md R85, R86; 10_state.md R11 to R24). -/

open Sys2Proof Sys2Proof.Machine

namespace Sys2Proof.Proofs

/-! ### The two answers of an instruction -/

/-- The instruction takes the fault `f` from the state `s`, and why. -/
inductive Faults (s : State) : Instr → Fault → Prop
  | ret (h : s.sp.val = 0) : Faults s .ret (.stackUnderflow s.pc)
  | call (nnn : BitVec 12) (h : s.sp.val = 16) : Faults s (.call nnn) (.stackOverflow s.pc)
  | drwMemory (x y : RegIdx) (n : BitVec 4) (h0 : 0 < n.toNat) (h : 0xFFF < s.i.toNat + n.toNat - 1) :
      Faults s (.drw x y n) (.memoryOutOfBounds (max s.i.toNat 0x1000))
  | drwDisplay (x y : RegIdx) (n : BitVec 4) (f : Fault)
      (h : displayFault s.params.drawEdge (s.spriteOf x y n) = some f) : Faults s (.drw x y n) f
  | ldBVx (x : RegIdx) (h : 0xFFF < s.i.toNat + 2) :
      Faults s (.ldBVx x) (.memoryOutOfBounds (max s.i.toNat 0x1000))
  | stRegs (x : RegIdx) (h : 0xFFF < s.i.toNat + x.val) :
      Faults s (.stRegs x) (.memoryOutOfBounds (max s.i.toNat 0x1000))
  | ldRegs (x : RegIdx) (h : 0xFFF < s.i.toNat + x.val) :
      Faults s (.ldRegs x) (.memoryOutOfBounds (max s.i.toNat 0x1000))

/-- The instruction completes from the state `s` in the state named last. Instructions that differ only in the value they
compute share a case: the skips, the writers of one register, the flag writers. -/
inductive Completes (s : State) : Instr → State → Prop
  | cls : Completes s .cls s.clearDisplay.advance
  | ret (h : 0 < s.sp.val) : Completes s .ret
      { s with sp := ⟨s.sp.val - 1, by omega⟩, pc := s.stack[s.sp.val - 1]'(by omega) }
  | jp (nnn : BitVec 12) : Completes s (.jp nnn) (s.setPc (zextNNN nnn))
  | call (nnn : BitVec 12) (h : s.sp.val < 16) : Completes s (.call nnn)
      { s with stack := s.stack.set s.sp.val (s.pc + 2) h, sp := ⟨s.sp.val + 1, by omega⟩, pc := zextNNN nnn }
  | jpV0 (nnn : BitVec 12) : Completes s (.jpV0 nnn) (s.setPc (zextNNN nnn + zextByte (s.readV 0)))
  | skip {i : Instr} (c : Bool) (hp : pcClass i = .skip) (hf : writesFlag i = false) : Completes s i (s.skipIf c)
  | setV {i : Instr} (x : RegIdx) (b : Byte) (hp : pcClass i = .sequential) (hf : writesFlag i = false)
      (hx : writesReg x i = true) : Completes s i (s.setV x b).advance
  | flagThen {i : Instr} (x : RegIdx) (c : Bool) (result : State → Byte) (hp : pcClass i = .sequential)
      (hf : writesFlag i = true) (hx : writesReg x i = true) : Completes s i (s.flagThen c x result).advance
  | ldI (nnn : BitVec 12) : Completes s (.ldI nnn) (s.setI (zextNNN nnn)).advance
  | rnd (x : RegIdx) (nn : Byte) : Completes s (.rnd x nn) (s.stepRng.setV x (s.rng.draw.1 &&& nn)).advance
  | drw (x y : RegIdx) (n : BitVec 4) (hm : n.toNat = 0 ∨ s.i.toNat + n.toNat - 1 ≤ 0xFFF)
      (hd : displayFault s.params.drawEdge (s.spriteOf x y n) = none) :
      Completes s (.drw x y n) (s.drawSprite (s.spriteOf x y n)).advance
  | takeKey (x : RegIdx) (k : Fin 16) (h : s.pickKey = some k) :
      Completes s (.ldVxK x) (s.setV x (BitVec.ofNat 8 k.val)).advance
  | stall (x : RegIdx) (h : s.pickKey = none) : Completes s (.ldVxK x) s
  | ldDtVx (x : RegIdx) : Completes s (.ldDtVx x) (s.setDt (s.readV x)).advance
  | ldStVx (x : RegIdx) : Completes s (.ldStVx x) (s.setSt (s.readV x)).advance
  | addIVx (x : RegIdx) : Completes s (.addIVx x) ((s.setFlag (rangeFlag s.i (s.readV x))).addToI x).advance
  | ldFVx (x : RegIdx) : Completes s (.ldFVx x) (s.setI (glyphAddress (s.readV x))).advance
  | ldBVx (x : RegIdx) (h : s.i.toNat + 2 ≤ 0xFFF) : Completes s (.ldBVx x)
      { s with mem := (s.pokeBlock s.i.toNat (bcdDigits (s.readV x))).mem, pc := s.pc + 2 }
  | stRegs (x : RegIdx) (h : s.i.toNat + x.val ≤ 0xFFF) : Completes s (.stRegs x)
      { s with
        mem := (s.pokeBlock s.i.toNat (s.regBlock x)).mem
        i := s.i + BitVec.ofNat 16 (x.val + 1)
        pc := s.pc + 2 }
  | ldRegs (x : RegIdx) (h : s.i.toNat + x.val ≤ 0xFFF) : Completes s (.ldRegs x)
      { s with
        v := (s.loadRegBlock (s.peekBlock s.i.toNat (x.val + 1))).v
        i := s.i + BitVec.ofNat 16 (x.val + 1)
        pc := s.pc + 2 }

/-- Every instruction takes a fault from the state it began in, or completes. -/
theorem exec_cases (i : Instr) (s : State) :
    (∃ f, Faults s i f ∧ exec i s = .next (s.takeFault f)) ∨ ∃ t, Completes s i t ∧ exec i s = .next t := by
  cases i with
  | cls => exact .inr ⟨_, .cls, rfl⟩
  | ret =>
    obtain ⟨h, he⟩ | ⟨h, he⟩ := execRet_cases s
    · exact .inr ⟨_, .ret h, he⟩
    · exact .inl ⟨_, .ret h, he⟩
  | jp nnn => exact .inr ⟨_, .jp nnn, rfl⟩
  | call nnn =>
    obtain ⟨h, he⟩ | ⟨h, he⟩ := execCall_cases nnn s
    · exact .inr ⟨_, .call nnn h, he⟩
    · exact .inl ⟨_, .call nnn h, he⟩
  | jpV0 nnn => exact .inr ⟨_, .jpV0 nnn, rfl⟩
  | seImm | sneImm | seReg | sneReg | skp | sknp => exact .inr ⟨_, .skip _ rfl rfl, rfl⟩
  | ldImm x | addImm x | ldReg x | or x | and x | xor x | ldVxDt x =>
    exact .inr ⟨_, .setV x _ rfl rfl (beq_self_eq_true x), rfl⟩
  | addReg x | sub x | shr x | subn x | shl x =>
    exact .inr ⟨_, .flagThen x _ _ rfl rfl (beq_self_eq_true x), rfl⟩
  | ldI nnn => exact .inr ⟨_, .ldI nnn, rfl⟩
  | rnd x nn => exact .inr ⟨_, .rnd x nn, rfl⟩
  | drw x y n =>
    obtain ⟨hm, hd, he⟩ | ⟨-, f, hd, he⟩ | ⟨h0, h, he⟩ := execDrw_cases x y n s
    · exact .inr ⟨_, .drw x y n hm hd, he⟩
    · exact .inl ⟨_, .drwDisplay x y n f hd, he⟩
    · exact .inl ⟨_, .drwMemory x y n h0 h, he⟩
  | ldVxK x =>
    obtain ⟨k, h, he⟩ | ⟨h, he⟩ := execLdVxK_cases x s
    · exact .inr ⟨_, .takeKey x k h, he⟩
    · exact .inr ⟨_, .stall x h, he⟩
  | ldDtVx x => exact .inr ⟨_, .ldDtVx x, rfl⟩
  | ldStVx x => exact .inr ⟨_, .ldStVx x, rfl⟩
  | addIVx x => exact .inr ⟨_, .addIVx x, rfl⟩
  | ldFVx x => exact .inr ⟨_, .ldFVx x, rfl⟩
  | ldBVx x =>
    obtain ⟨h, he⟩ | ⟨h, he⟩ := execLdBVx_cases x s
    · exact .inr ⟨_, .ldBVx x h, he⟩
    · exact .inl ⟨_, .ldBVx x h, he⟩
  | stRegs x =>
    obtain ⟨h, he⟩ | ⟨h, he⟩ := execStRegs_cases x s
    · exact .inr ⟨_, .stRegs x h, he⟩
    · exact .inl ⟨_, .stRegs x h, he⟩
  | ldRegs x =>
    obtain ⟨h, he⟩ | ⟨h, he⟩ := execLdRegs_cases x s
    · exact .inr ⟨_, .ldRegs x h, he⟩
    · exact .inl ⟨_, .ldRegs x h, he⟩

section
variable {s t : State} {i : Instr}

/-- Where a state that an instruction answered comes from. -/
theorem exec_next (h : exec i s = .next t) : (∃ f, Faults s i f ∧ t = s.takeFault f) ∨ Completes s i t := by
  obtain ⟨f, hf, he⟩ | ⟨u, hu, he⟩ := exec_cases i s
  · exact .inl ⟨f, hf, Host.Outcome.next.inj (h.symm.trans he)⟩
  · exact .inr (Host.Outcome.next.inj (h.symm.trans he) ▸ hu)

/-- What a completed instruction never touches. -/
theorem Completes.frame (h : Completes s i t) : t.halted = s.halted ∧ t.faultCause = s.faultCause ∧ t.key = s.key ∧
    t.params = s.params ∧ t.loaded = s.loaded ∧ t.beep = s.beep := by
  cases h <;> exact ⟨rfl, rfl, rfl, rfl, rfl, rfl⟩

theorem Completes.halted (h : Completes s i t) : t.halted = s.halted := h.frame.1

/-- An instruction that answers a running state completed. -/
theorem completes_of_running (h : exec i s = .next t) (ht : t.halted = false) : Completes s i t := by
  obtain ⟨f, -, rfl⟩ | hc := exec_next h
  · cases ht
  · exact hc

/-- An instruction that halts a running core took a fault. -/
theorem faults_of_halted (h : exec i s = .next t) (hs : s.halted = false) (ht : t.halted = true) :
    ∃ f, Faults s i f ∧ t = s.takeFault f := by
  obtain hf | hc := exec_next h
  · exact hf
  · rw [hc.halted, hs] at ht
    cases ht

end

/-! ### Faults and the next pc -/

/-- A display fault comes from the policy `fault` and names the first target off the display (45_display.md R173). -/
theorem displayFault_eq_some {p : DrawEdgePolicy} {ts : List (Nat × Nat)} {f : Fault} :
    displayFault p ts = some f ↔
      p = .fault ∧ ∃ q, ts.find? offDisplay = some q ∧ f = .displayOutOfBounds q.1 q.2 := by
  unfold displayFault
  cases ts.find? offDisplay with
  | none => simp
  | some q => cases p <;> simp [eq_comm]

theorem offDisplay_iff {q : Nat × Nat} : offDisplay q = true ↔ 63 < q.1 ∨ 31 < q.2 := decide_eq_true_iff

/-- Settles O13: each way of taking a fault names its instruction and its condition. -/
theorem onlyTheListedInstructionsFault : Obligations.OnlyTheListedInstructionsFault := by
  unfold Obligations.OnlyTheListedInstructionsFault
  intro i s t hs he ht
  obtain ⟨f, hf, -⟩ := faults_of_halted he hs ht
  cases hf with
  | ret h => exact .inl ⟨rfl, h⟩
  | call nnn h => exact .inr (.inl ⟨nnn, rfl, h⟩)
  | drwMemory x y n h0 h => exact .inr (.inr (.inl ⟨x, y, n, rfl, .inl ⟨h0, h⟩⟩))
  | drwDisplay x y n _ h =>
    obtain ⟨hp, q, hq, -⟩ := displayFault_eq_some.1 h
    refine .inr (.inr (.inl ⟨x, y, n, rfl, .inr ⟨hp, q.1, q.2, ?_, offDisplay_iff.1 (List.find?_some hq)⟩⟩))
    exact (mem_spriteOf s x y n q.1 q.2).1 (List.mem_of_find?_eq_some hq)
  | ldBVx x h => exact .inr (.inr (.inr (.inl ⟨x, rfl, h⟩)))
  | stRegs x h => exact .inr (.inr (.inr (.inr ⟨x, .inl rfl, h⟩)))
  | ldRegs x h => exact .inr (.inr (.inr (.inr ⟨x, .inr rfl, h⟩)))

@[simp] theorem toNat_zextNNN (nnn : BitVec 12) : (zextNNN nnn).toNat = nnn.toNat :=
  BitVec.toNat_setWidth_of_le (by omega)

@[simp] theorem toNat_zextByte (b : Byte) : (zextByte b).toNat = b.toNat := BitVec.toNat_setWidth_of_le (by omega)

/-- The target of BNNN is the exact sum: it stays below 65536 (41_control_flow.md R107). -/
theorem toNat_indexedTarget (nnn : BitVec 12) (b : Byte) :
    (zextNNN nnn + zextByte b).toNat = nnn.toNat + b.toNat := by
  have hn := nnn.isLt
  have hb := b.isLt
  rw [BitVec.toNat_add, toNat_zextNNN, toNat_zextByte]
  omega

/-- Settles O14: each way of completing belongs to one class and sets `pc` as the class says. -/
theorem nextPcFollowsTheClass : Obligations.NextPcFollowsTheClass := by
  unfold Obligations.NextPcFollowsTheClass
  intro i s t he ht
  cases completes_of_running he ht with
  | ret h =>
    have hk : s.sp.val - 1 < 16 := by omega
    exact ⟨nofun, nofun, nofun, fun _ => .inr (.inr ⟨rfl, ⟨s.sp.val - 1, hk⟩, (Nat.sub_add_cancel h).symm, rfl⟩)⟩
  | jp nnn => exact ⟨nofun, nofun, nofun, fun _ => .inl ⟨nnn, .inl rfl, rfl⟩⟩
  | call nnn h => exact ⟨nofun, nofun, nofun, fun _ => .inl ⟨nnn, .inr rfl, rfl⟩⟩
  | jpV0 nnn => exact ⟨nofun, nofun, nofun, fun _ => .inr (.inl ⟨nnn, rfl, toNat_indexedTarget nnn _⟩)⟩
  | skip c hp hf => cases c <;> simp [hp]
  | setV x b hp => simp [hp]
  | flagThen x c f hp => simp [hp]
  | takeKey x k h => exact ⟨nofun, nofun, fun _ => .inl rfl, nofun⟩
  | stall x h => exact ⟨nofun, nofun, fun _ => .inr rfl, nofun⟩
  | cls | ldI | rnd | drw | ldDtVx | ldStVx | addIVx | ldFVx | ldBVx | stRegs | ldRegs =>
    exact ⟨fun _ => rfl, nofun, nofun, nofun⟩

/-! ### The frame of each instruction -/

/-- Settles O15: a fault keeps memory, and of the ways to complete only the two stores write it. -/
theorem onlyStoresWriteMemory : Obligations.OnlyStoresWriteMemory := by
  unfold Obligations.OnlyStoresWriteMemory
  intro i s t he hb hst
  obtain ⟨f, -, rfl⟩ | hc := exec_next he
  · rfl
  · cases hc with
    | ldBVx x => exact absurd rfl (hb x)
    | stRegs x => exact absurd rfl (hst x)
    | _ => rfl

/-- Settles O16: a fault keeps the display, and of the ways to complete only 00E0 and DXYN write it. -/
theorem onlyDisplayInstructionsWriteTheDisplay : Obligations.OnlyDisplayInstructionsWriteTheDisplay := by
  unfold Obligations.OnlyDisplayInstructionsWriteTheDisplay
  intro i s t he hcls hdrw
  obtain ⟨f, -, rfl⟩ | hc := exec_next he
  · exact ⟨rfl, rfl⟩
  · cases hc with
    | cls => exact absurd rfl hcls
    | drw x y n => exact absurd rfl (hdrw x y n)
    | _ => exact ⟨rfl, rfl⟩

/-- Settles O17: a fault keeps the stack, and of the ways to complete only 2NNN writes it, only 2NNN and 00EE move
`sp`. -/
theorem onlyCallAndReturnTouchTheStack : Obligations.OnlyCallAndReturnTouchTheStack := by
  unfold Obligations.OnlyCallAndReturnTouchTheStack
  intro i s t he hcall
  obtain ⟨f, -, rfl⟩ | hc := exec_next he
  · exact ⟨rfl, fun _ => rfl⟩
  · cases hc with
    | ret => exact ⟨rfl, fun hr => absurd rfl hr⟩
    | call nnn => exact absurd rfl (hcall nnn)
    | _ => exact ⟨rfl, fun _ => rfl⟩

/-- Settles O18: a fault keeps the four, and each of them has its own ways to complete that write it. -/
theorem onlyTheirInstructionsWriteSpecialRegisters : Obligations.OnlyTheirInstructionsWriteSpecialRegisters := by
  unfold Obligations.OnlyTheirInstructionsWriteSpecialRegisters
  intro i s t he
  obtain ⟨f, -, rfl⟩ | hc := exec_next he
  · exact ⟨fun _ _ _ _ _ => rfl, fun _ => rfl, fun _ => rfl, fun _ => rfl⟩
  · refine ⟨fun h1 h2 h3 h4 h5 => ?_, fun h => ?_, fun h => ?_, fun h => ?_⟩
    · cases hc with
      | ldI nnn => exact absurd rfl (h1 nnn)
      | addIVx x => exact absurd rfl (h2 x)
      | ldFVx x => exact absurd rfl (h3 x)
      | stRegs x => exact absurd rfl (h4 x)
      | ldRegs x => exact absurd rfl (h5 x)
      | _ => rfl
    · cases hc with
      | ldDtVx x => exact absurd rfl (h x)
      | _ => rfl
    · cases hc with
      | ldStVx x => exact absurd rfl (h x)
      | _ => rfl
    · cases hc with
      | rnd x nn => exact absurd rfl (h x nn)
      | _ => rfl

/-- A register that a block load reaches holds its byte (43_index_memory.md R145). -/
theorem v_loadRegBlock_of_lt (s : State) (bytes : List Byte) (r : RegIdx) (h : r.val < bytes.length) :
    (s.loadRegBlock bytes).v[r.val] = bytes[r.val] := by
  simp [h]

/-- A register beyond a block load keeps its value (43_index_memory.md R145). -/
theorem v_loadRegBlock_of_ge (s : State) (bytes : List Byte) (r : RegIdx) (h : bytes.length ≤ r.val) :
    (s.loadRegBlock bytes).v[r.val] = s.v[r.val] := by
  simp [h]

/-- A register that the instruction does not write is none that it does. -/
theorem ne_of_writesReg {i : Instr} {r x : RegIdx} (hr : writesReg r i = false) (hx : writesReg x i = true) :
    r ≠ x := fun h => by
  rw [h, hx] at hr
  cases hr

/-- Settles O19: every register write of a completed instruction is to a destination or, by a flag writer, to VF. -/
theorem onlyDestinationsAndTheFlagChange : Obligations.OnlyDestinationsAndTheFlagChange := by
  unfold Obligations.OnlyDestinationsAndTheFlagChange
  intro i s t r he hr hvf
  obtain ⟨f, -, rfl⟩ | hc := exec_next he
  · rfl
  · cases hc with
    | setV x b hp hf hx => exact s.v_setV_ne (ne_of_writesReg hr hx) b
    | flagThen x c f hp hf hx => exact s.v_flagThen_ne (hvf hf) (ne_of_writesReg hr hx) c f
    | rnd x nn => exact s.stepRng.v_setV_ne (beq_eq_false_iff_ne.1 hr) _
    | takeKey x k h => exact s.v_setV_ne (beq_eq_false_iff_ne.1 hr) _
    | drw x y n => exact s.v_setFlag_ne (hvf rfl) _
    | addIVx x => exact s.v_setFlag_ne (hvf rfl) _
    | ldRegs x =>
      have hlt : x < r := not_le.1 (of_decide_eq_false hr)
      exact v_loadRegBlock_of_ge s _ r (by simpa using hlt)
    | _ => rfl

/-- Settles O20: the flag writers end with VF holding a flag byte, which no later write of the instruction reaches. -/
theorem flagWritersLeaveZeroOrOne : Obligations.FlagWritersLeaveZeroOrOne := by
  unfold Obligations.FlagWritersLeaveZeroOrOne
  intro i s t he ht hw hvf
  cases completes_of_running he ht with
  | flagThen x c f hp hf hx =>
    have hv : (s.flagThen c x f).v[15] = flagByte c := s.v_flagThen_vf (ne_of_writesReg hvf hx) c f
    exact hv ▸ flagByte_zero_or_one c
  | drw x y n => exact s.v_setFlag_vf _ ▸ flagByte_zero_or_one _
  | addIVx x => exact s.v_setFlag_vf _ ▸ flagByte_zero_or_one _
  | skip c hp hf => cases hf.symm.trans hw
  | setV x b hp hf => cases hf.symm.trans hw
  | _ => cases hw

end Sys2Proof.Proofs
end

section
/-! PROOF. The step: its equations, the CYCLEs of a halted core and of an unknown opcode, faults, and what no step touches
(40_cycle.md R80 to R88; 60_exceptions.md R218 to R228). -/

open Sys2Proof Sys2Proof.Machine

namespace Sys2Proof.Proofs

/-! ### The equations of the step -/

section
variable {s t u : State} {w : Word} {i : Instr} {f : Fault}

theorem step_of_loaded (h : s.loaded = true) : step s = s.cycle := if_pos h

theorem step_of_halted (hl : s.loaded = true) (hh : s.halted = true) : step s = .next s.haltedCycle :=
  (step_of_loaded hl).trans (if_pos hh)

theorem step_of_fetch_error (h : s.Running) (hf : s.fetch = .error f) : step s = .next (s.takeFault f) := by
  simp [step_of_loaded h.loaded, State.cycle, h.notHalted, hf]

theorem step_of_fetch_ok (h : s.Running) (hw : s.fetch = .ok w) : step s = s.cycleWord w := by
  simp [step_of_loaded h.loaded, State.cycle, h.notHalted, hw]

theorem cycleWord_of_decode_ok (hd : decodeWord w = .ok i) (he : exec i s = .next t) :
    s.cycleWord w = .next t.finishCycle := by
  simp [State.cycleWord, hd, he]

theorem finishCycle_of_halted (h : t.halted = true) : t.finishCycle = t := if_pos h

theorem finishCycle_of_running (h : t.halted = false) : t.finishCycle = t.postStep.report .ok := by
  simp [State.finishCycle, h]

/-- The end of a CYCLE written out: the timers, the beep and the report, nothing else. -/
theorem postStep_report_eq (s : State) (r : CycleResult) : s.postStep.report r = { s with
    dt := if s.dt = 0 then 0 else s.dt - 1
    st := if s.st = 0 then 0 else s.st - 1
    beep := if s.st = 1 then true else s.beep
    lastResult := some r } := by
  rw [← beep_postStep]
  rfl

/-- The end of a CYCLE leaves what the next fetch reads. -/
theorem fetches_postStep_report (h : s.Fetches w) (r : CycleResult) : (s.postStep.report r).Fetches w :=
  ⟨⟨h.running.loaded, h.running.notHalted⟩, h.inRange, h.high, h.low⟩

theorem pc_le_of_fetch_ok (h : s.fetch = .ok w) : s.pc.toNat ≤ 0xFFE := by
  by_contra hn
  rw [State.fetch_error s (by omega)] at h
  cases h

/-- Where a state that a step answered comes from, in the terms of the instruction that completed. -/
theorem step_next (h : step s = .next t) : s.loaded = true ∧
    ((s.halted = true ∧ t = s.haltedCycle) ∨ (s.halted = false ∧
      ((∃ f, t = s.takeFault f) ∨ (∃ w, t = s.unknownCycle w) ∨
        ∃ i u, s.pc.toNat ≤ 0xFFE ∧ Completes s i u ∧ t = u.postStep.report .ok))) := by
  obtain ⟨hl, ⟨hh, ht⟩ | ⟨hh, f, -, ht⟩ | ⟨hh, w, -, -, -, ht⟩ | ⟨hh, -, -, f, -, -, -, ht⟩ |
    ⟨hh, w, i, u, hw, -, he, hu, ht⟩⟩ := step_cases h
  · exact ⟨hl, .inl ⟨hh, ht⟩⟩
  · exact ⟨hl, .inr ⟨hh, .inl ⟨f, ht⟩⟩⟩
  · exact ⟨hl, .inr ⟨hh, .inr (.inl ⟨w, ht⟩)⟩⟩
  · exact ⟨hl, .inr ⟨hh, .inl ⟨f, ht⟩⟩⟩
  · exact ⟨hl, .inr ⟨hh, .inr (.inr ⟨i, u, pc_le_of_fetch_ok hw, completes_of_running he hu, ht⟩)⟩⟩

theorem runSteps_succ (h : step s = .next t) (k : Nat) : runSteps (k + 1) s = runSteps k t := by
  rw [runSteps, h]

end

/-! ### One step -/

/-- Settles O8: an instruction faults or completes, and each branch of a CYCLE answers a next state. -/
theorem loadedStepAlwaysAnswersNext : Obligations.LoadedStepAlwaysAnswersNext := by
  unfold Obligations.LoadedStepAlwaysAnswersNext
  have hexec : ∀ (i : Instr) (s : State), ∃ t, exec i s = .next t := fun i s => by
    obtain ⟨f, -, he⟩ | ⟨t, -, he⟩ := exec_cases i s
    · exact ⟨_, he⟩
    · exact ⟨t, he⟩
  refine ⟨hexec, fun s hl => ?_⟩
  cases hh : s.halted with
  | true => exact ⟨_, step_of_halted hl hh⟩
  | false =>
    cases hf : s.fetch with
    | error f => exact ⟨_, step_of_fetch_error ⟨hl, hh⟩ hf⟩
    | ok w =>
      rw [step_of_fetch_ok ⟨hl, hh⟩ hf]
      cases hd : decodeWord w with
      | error r => exact ⟨s.unknownCycle w, by simp [State.cycleWord, hd]⟩
      | ok i =>
        obtain ⟨t, he⟩ := hexec i s
        exact ⟨_, cycleWord_of_decode_ok hd he⟩

/-- Settles O5: the fetch is refused with the larger of `pc` and 0x1000, and only 0xFFF lies between. -/
theorem fetchOutOfRangeFaults : Obligations.FetchOutOfRangeFaults := by
  unfold Obligations.FetchOutOfRangeFaults
  intro s hs hpc
  have haddr : max s.pc.toNat 0x1000 = if s.pc.toNat = 0xFFF then 0x1000 else s.pc.toNat := by
    split <;> omega
  rw [step_of_fetch_error hs (State.fetch_error s hpc), haddr]
  rfl

/-- Settles O6: the two bytes at `pc` are what the fetch reads, and the CYCLE ends by whether the instruction halted. -/
theorem stepRunsTheDecodedInstruction : Obligations.StepRunsTheDecodedInstruction := by
  unfold Obligations.StepRunsTheDecodedInstruction
  intro s t i hs hpc hd he
  have hw : decodeWord (wordOfBytes (s.peek s.pc.toNat) (s.peek (s.pc.toNat + 1))) = .ok i := by
    rw [decodeBytes_cons_cons] at hd
    cases hdec : decodeWord (wordOfBytes (s.peek s.pc.toNat) (s.peek (s.pc.toNat + 1))) <;> rw [hdec] at hd <;>
      cases hd
    rfl
  have hstep : step s = .next t.finishCycle := by
    rw [step_of_fetch_ok hs (State.fetch_ok s hpc), cycleWord_of_decode_ok hw he]
  constructor
  · intro ht
    rw [hstep, finishCycle_of_halted ht]
  · intro ht
    rw [hstep, finishCycle_of_running ht, postStep_report_eq]

/-- Settles O12: of the ways a running core can answer, only a fault halts it, and a fault writes the latch, the cause and
the report. -/
theorem fatalFaultsArePrecise : Obligations.FatalFaultsArePrecise := by
  unfold Obligations.FatalFaultsArePrecise
  intro s t hs h ht
  obtain ⟨-, ⟨hh, -⟩ | ⟨-, ⟨f, rfl⟩ | ⟨w, rfl⟩ | ⟨i, u, -, hc, rfl⟩⟩⟩ := step_next h
  · cases hs.symm.trans hh
  · exact ⟨f, rfl⟩
  · cases hs.symm.trans ht
  · cases (hc.halted.trans hs).symm.trans ht

/-- A completed instruction does not clear `redraw`. -/
theorem Completes.redraw {s t : State} {i : Instr} (h : Completes s i t) (hr : s.redraw = true) :
    t.redraw = true := by
  cases h with
  | cls | drw => rfl
  | _ => exact hr

/-- Settles O21: the branches of a CYCLE keep the host's fields, and the post-step can only set the beep. -/
theorem stepLeavesTheHostsStateAlone : Obligations.StepLeavesTheHostsStateAlone := by
  unfold Obligations.StepLeavesTheHostsStateAlone
  intro s t h
  have hbeep : ∀ {u : State}, u.beep = true → u.postStep.beep = true := fun hb => by simp [hb]
  obtain ⟨-, ⟨-, rfl⟩ | ⟨-, ⟨f, rfl⟩ | ⟨w, rfl⟩ | ⟨i, u, -, hc, rfl⟩⟩⟩ := step_next h
  · exact ⟨rfl, rfl, rfl, id, id⟩
  · exact ⟨rfl, rfl, rfl, id, id⟩
  · exact ⟨rfl, rfl, rfl, id, hbeep⟩
  · obtain ⟨-, -, hkey, hparams, hloaded, hb⟩ := hc.frame
    exact ⟨hkey, hparams, hloaded, hc.redraw, fun h => hbeep (hb.trans h)⟩

/-! ### Several steps -/

/-- Settles O4, by induction on the number of steps: the report of a halted core is repeated word for word. -/
theorem haltedCoreStaysAsItIs : Obligations.HaltedCoreStaysAsItIs := by
  unfold Obligations.HaltedCoreStaysAsItIs
  intro s k hl hh
  induction k generalizing s with
  | zero => exact runSteps_succ (step_of_halted hl hh) 0
  | succ k ih => rw [runSteps_succ (step_of_halted hl hh), ih s.haltedCycle hl hh]; rfl

/-- Settles O7, by induction on the number of steps: the CYCLE of an unknown opcode leaves `pc` and memory, so the next one
fetches the same word. -/
theorem unknownOpcodeIsReportedForever : Obligations.UnknownOpcodeIsReportedForever := by
  unfold Obligations.UnknownOpcodeIsReportedForever
  intro s w h hw
  have hstep : ∀ {s : State}, s.Fetches w → step s = .next (s.unknownCycle w) := fun h =>
    h.step_unknown ((decoderAcceptsExactlyTheMap w).2 hw)
  refine ⟨?_, fun k => ?_⟩
  · rw [hstep h, State.unknownCycle, postStep_report_eq]
  · induction k generalizing s with
    | zero => exact ⟨s.unknownCycle w, runSteps_succ (hstep h) 0, rfl⟩
    | succ k ih =>
      obtain ⟨t, ht, heq⟩ := ih (s.unknownCycle w) (fetches_postStep_report h _)
      exact ⟨t, (runSteps_succ (hstep h) (k + 1)).trans ht, heq⟩

section
variable (s : State) (k : Nat)

theorem dt_postStep_iterate : (State.postStep^[k] s).dt.toNat = s.dt.toNat - k := by
  induction k with
  | zero => rfl
  | succ k ih => rw [Function.iterate_succ_apply', State.postStep_dt, countDown_toNat, ih, Nat.sub_sub]

theorem st_postStep_iterate : (State.postStep^[k] s).st.toNat = s.st.toNat - k := by
  induction k with
  | zero => rfl
  | succ k ih => rw [Function.iterate_succ_apply', State.postStep_st, countDown_toNat, ih, Nat.sub_sub]

/-- The beep is set in the post-step that finds ST at 1, the last one before it runs out. -/
theorem beep_postStep_iterate :
    (State.postStep^[k] s).beep = true ↔ s.beep = true ∨ 0 < s.st.toNat ∧ s.st.toNat ≤ k := by
  induction k with
  | zero => simp; omega
  | succ k ih =>
    have hst : (State.postStep^[k] s).st = 1 ↔ s.st.toNat = k + 1 := by
      rw [← BitVec.toNat_inj, st_postStep_iterate]
      show s.st.toNat - k = 1 ↔ _
      omega
    rw [Function.iterate_succ_apply', State.postStep_beep, Bool.or_eq_true, ih, beq_iff_eq, hst, or_assoc]
    exact or_congr_right (by omega)

theorem postStep_iterate_frame : State.postStep^[k] s = { s with
    dt := (State.postStep^[k] s).dt, st := (State.postStep^[k] s).st, beep := (State.postStep^[k] s).beep } := by
  induction k with
  | zero => rfl
  | succ k ih =>
    rw [Function.iterate_succ_apply']
    exact congrArg State.postStep ih

end

/-- Settles O59: each timer, the beep and the frame by induction on the number of post-steps. -/
theorem postStepsCountTheTimersDown : Obligations.PostStepsCountTheTimersDown := by
  unfold Obligations.PostStepsCountTheTimersDown
  intro s k
  exact ⟨dt_postStep_iterate s k, st_postStep_iterate s k, beep_postStep_iterate s k, postStep_iterate_frame s k⟩

/-- Settles O60: the self-jump sets `pc` to the value it has, so the CYCLE is its post-step only. -/
theorem finishedProgramStaysFinished : Obligations.FinishedProgramStaysFinished := by
  unfold Obligations.FinishedProgramStaysFinished
  rintro s ⟨nnn, hpc, hf⟩
  have hself : s.setPc (zextNNN nnn) = s := by
    rw [zextNNN, ← hpc]
    rfl
  have he : exec (.jp nnn) s = .next s := (exec_jp nnn s).trans (congrArg _ hself)
  have hstep := step_eq_postStep hf (decodeWord_encodeWord (.jp nnn)) he hf.running.notHalted
  exact ⟨_, hstep, ⟨nnn, hpc, fetches_postStep_report hf _⟩, rfl⟩

end Sys2Proof.Proofs
end

section
/-! PROOF. The invariant: it holds at reset and after every LOAD, and every step and every move keep it (10_state.md R14,
R25, R27; 44_random.md R162; 70_reset_and_hazards.md R249). -/

open Sys2Proof Sys2Proof.Machine

namespace Sys2Proof.Proofs

/-! ### The parts of the invariant under an instruction that completes -/

section
variable {s t : State} {i : Instr}

theorem pokeBlock_mem_wf (s : State) {a : Nat} (bytes : List Byte) (h : Memory.wf s.params.font s.mem)
    (ha : a + bytes.length ≤ 4096) : Memory.wf s.params.font (s.pokeBlock a bytes).mem := by
  have hw := State.pokeBlock_wf s bytes h ha
  rwa [State.pokeBlock_params] at hw

/-- The stores check their range, so the bytes they write lie below 4096. -/
theorem Completes.memory (h : Completes s i t) (hm : Memory.wf s.params.font s.mem) :
    Memory.wf t.params.font t.mem := by
  cases h with
  | ldBVx x hx => exact pokeBlock_mem_wf s _ hm (show s.i.toNat + 3 ≤ 4096 by omega)
  | stRegs x hx =>
    have hl := s.length_regBlock x
    exact pokeBlock_mem_wf s _ hm (by omega)
  | _ => exact hm

theorem toNat_pc_add {p : Word} (h : p.toNat ≤ 0xFFE) : (p + 2).toNat = p.toNat + 2 ∧ (p + 4).toNat = p.toNat + 4 := by
  bv_omega

theorem toNat_zextNNN_le (nnn : BitVec 12) : (zextNNN nnn).toNat ≤ 0xFFF := by
  have hn := nnn.isLt
  rw [toNat_zextNNN]
  omega

/-- From a fetched address each class of instruction reaches at most 0x10FE, which BNNN attains. -/
theorem Completes.pc_le (h : Completes s i t) (hpc : s.pc.toNat ≤ 0xFFE)
    (hst : ∀ k : Fin 16, s.stack[k.val].toNat ≤ 0x1000) : t.pc.toNat ≤ 0x10FE := by
  have hnext : (s.pc + 2).toNat ≤ 0x10FE ∧ (s.pc + 4).toNat ≤ 0x10FE := by
    have hadd := toNat_pc_add hpc
    omega
  cases h with
  | ret hsp => exact (hst ⟨s.sp.val - 1, by omega⟩).trans (by omega)
  | jp nnn => exact (toNat_zextNNN_le nnn).trans (by omega)
  | call nnn => exact (toNat_zextNNN_le nnn).trans (by omega)
  | jpV0 nnn =>
    have hn := nnn.isLt
    have hb := (s.readV 0).isLt
    rw [State.setPc_pc, toNat_indexedTarget]
    omega
  | skip c =>
    cases c with
    | true => exact hnext.2
    | false => exact hnext.1
  | stall => exact hpc.trans (by omega)
  | _ => exact hnext.1

/-- A call pushes the address behind the fetched word, at most 0x1000. -/
theorem Completes.stack_le (h : Completes s i t) (hpc : s.pc.toNat ≤ 0xFFE)
    (hst : ∀ k : Fin 16, s.stack[k.val].toNat ≤ 0x1000) : ∀ k : Fin 16, t.stack[k.val].toNat ≤ 0x1000 := by
  cases h with
  | call nnn hsp =>
    intro k
    have hadd := (toNat_pc_add hpc).1
    show ((s.stack.set s.sp.val (s.pc + 2) hsp)[k.val]).toNat ≤ _
    rw [Vector.getElem_set]
    split
    · omega
    · exact hst k
  | _ => exact hst

theorem legal_draw {r : RngState} (h : r.legal) : r.draw.2.legal := by
  cases r with
  | free n => trivial
  | reference w => exact lfsrSteps_ne_zero h 8

theorem Completes.rng_legal (h : Completes s i t) (hr : s.rng.legal) : t.rng.legal := by
  cases h with
  | rnd => exact legal_draw hr
  | _ => exact hr

/-- An instruction that was fetched and completes keeps the invariant. -/
theorem Completes.inv (h : Completes s i t) (hpc : s.pc.toNat ≤ 0xFFE) (hs : s.Inv) : t.Inv where
  memory := h.memory hs.memory
  pc := h.pc_le hpc hs.stack
  stack := h.stack_le hpc hs.stack
  halt := by
    obtain ⟨hhalt, hcause, -⟩ := h.frame
    rw [hhalt, hcause]
    exact hs.halt
  rng := h.rng_legal hs.rng

/-- A fault sets the latch and records a cause, and keeps the rest. -/
theorem inv_takeFault (hs : s.Inv) (f : Fault) : (s.takeFault f).Inv :=
  ⟨hs.memory, hs.pc, hs.stack, iff_of_true rfl f.cause_ne_none, hs.rng⟩

theorem inv_report (hs : s.Inv) (r : CycleResult) : (s.report r).Inv :=
  ⟨hs.memory, hs.pc, hs.stack, hs.halt, hs.rng⟩

theorem inv_postStep (hs : s.Inv) : s.postStep.Inv := ⟨hs.memory, hs.pc, hs.stack, hs.halt, hs.rng⟩

end

/-- Settles O9: each branch of a CYCLE keeps the invariant; a completed instruction was fetched at or below 0xFFE, which
bounds its next `pc` and what it pushes. -/
theorem everyStepKeepsTheInvariant : Obligations.EveryStepKeepsTheInvariant := by
  unfold Obligations.EveryStepKeepsTheInvariant
  intro s t hs h
  obtain ⟨-, ⟨-, rfl⟩ | ⟨-, ⟨f, rfl⟩ | ⟨w, rfl⟩ | ⟨i, u, hpc, hc, rfl⟩⟩⟩ := step_next h
  · exact inv_report hs _
  · exact inv_takeFault hs f
  · exact inv_report (inv_postStep hs) _
  · exact inv_report (inv_postStep (hc.inv hpc hs)) _

/-! ### Reset, LOAD and the moves of the host -/

theorem inv_cleared (params : Params) {rng : RngState} (h : rng.legal) : (State.cleared params rng).Inv where
  memory := State.cleared_wf params rng
  pc := show 0x200 ≤ 0x10FE by omega
  stack k := by simp [State.cleared]
  halt := by simp [State.cleared]
  rng := h

/-- LOAD keeps the random source, and stores the program over a cleared core within memory. -/
theorem inv_afterLoad (s : State) {bytes : List Byte} (h : bytes.length ≤ 3584) (hr : s.rng.legal) :
    (s.afterLoad bytes).Inv := by
  have hm := State.afterLoad_wf s h
  have hc := inv_cleared s.params hr
  rw [State.afterLoad_eq] at hm ⊢
  exact ⟨hm, hc.pc, hc.stack, hc.halt, hc.rng⟩

/-- Settles O10: reset is the cleared core with the free source. -/
theorem invariantHoldsAtReset : Obligations.InvariantHoldsAtReset :=
  inv_cleared Config.defaultParams (rng := .free 0) trivial

/-- Settles O11: a LOAD that answers Ok accepted the length. -/
theorem invariantHoldsAfterLoad : Obligations.InvariantHoldsAfterLoad := by
  unfold Obligations.InvariantHoldsAfterLoad
  intro bytes s t hr h
  obtain ⟨hl, he⟩ | ⟨-, he⟩ := s.load_cases bytes <;> rw [he] at h <;> cases h
  exact inv_afterLoad s hl hr

/-- Settles O22: a failed LOAD changes nothing, a CYCLE is a step, and the other moves write no part of the invariant. -/
theorem everyMoveKeepsTheInvariant : Obligations.EveryMoveKeepsTheInvariant := by
  unfold Obligations.EveryMoveKeepsTheInvariant
  intro m s t hs h
  obtain ⟨bytes, rfl, rfl⟩ | ⟨rfl, hstep⟩ | ⟨-, ⟨k, down, rfl, rfl⟩ | ⟨rfl, rfl⟩ | ⟨rfl, rfl⟩⟩ :=
    State.perform_cases s h
  · obtain ⟨hl, he⟩ | ⟨-, he⟩ := s.load_cases bytes <;> rw [he]
    · exact inv_afterLoad s hl hs.rng
    · exact hs
  · exact everyStepKeepsTheInvariant s t hs hstep
  · exact ⟨hs.memory, hs.pc, hs.stack, hs.halt, hs.rng⟩
  · exact ⟨hs.memory, hs.pc, hs.stack, hs.halt, hs.rng⟩
  · exact ⟨hs.memory, hs.pc, hs.stack, hs.halt, hs.rng⟩

end Sys2Proof.Proofs
end

section
/-! PROOF. Reset, LOAD and the accesses of the host (10_state.md R28; 70_reset_and_hazards.md R240 to R249; 60_exceptions.md
R223). -/

open Sys2Proof Sys2Proof.Machine

namespace Sys2Proof.Proofs

/-! ### Reset and LOAD -/

theorem background_font (font : Font) (a : Fin 80) : Memory.background font a.val = font[a.val] := dif_pos a.isLt

theorem background_zero (font : Font) {a : Nat} (h : 80 ≤ a) : Memory.background font a = 0 := dif_neg (by omega)

/-- A cleared core reads as the background everywhere. -/
theorem peek_cleared (params : Params) (rng : RngState) (a : Nat) :
    (State.cleared params rng).peek a = Memory.background params.font a := rfl

/-- Settles O1: the cleared core's fields are written out in its definition, and its memory is the background. -/
theorem resetLeavesTheListedValues : Obligations.ResetLeavesTheListedValues := by
  unfold Obligations.ResetLeavesTheListedValues
  refine ⟨rfl, rfl, rfl, rfl, rfl, rfl, rfl, rfl, rfl, fun x => Vector.getElem_replicate x.isLt,
    fun k => Vector.getElem_replicate k.isLt, fun k => Vector.getElem_replicate k.isLt, cell_replicate_zero,
    fun a => ?_, fun a h => ?_⟩
  · exact (peek_cleared _ _ a.val).trans (background_font _ a)
  · exact (peek_cleared _ _ a).trans (background_zero _ h)

section
variable (s : State) {bytes : List Byte}

theorem peek_afterLoad_outside {a : Nat} (h : a < 0x200 ∨ 0x200 + bytes.length ≤ a) :
    (s.afterLoad bytes).peek a = Memory.background s.params.font a :=
  State.peek_pokeBlock_ne _ bytes h

theorem peek_afterLoad_program (hl : bytes.length ≤ 3584) (j : Nat) (h : j < bytes.length) :
    (s.afterLoad bytes).peek (0x200 + j) = bytes[j] :=
  State.peek_pokeBlock_mem _ bytes (State.cleared_wf _ _) (show 0x200 + bytes.length ≤ 4096 by omega) j h

/-- A successful LOAD ends the halt. -/
theorem halted_afterLoad : (s.afterLoad bytes).halted = false := by rw [State.afterLoad_eq]; rfl

end

/-- Settles O2: but for memory the state is the cleared core's, and memory is the background with the program over it. -/
theorem loadResetsAndInstallsTheProgram : Obligations.LoadResetsAndInstallsTheProgram := by
  unfold Obligations.LoadResetsAndInstallsTheProgram
  intro bytes s
  obtain ⟨hl, he⟩ | ⟨hl, he⟩ := s.load_cases bytes
  · refine ⟨fun _ => ?_, fun h => absurd hl (by omega)⟩
    have hfont : ∀ a : Fin 80, (s.afterLoad bytes).peek a.val = s.params.font[a.val] := fun a =>
      (peek_afterLoad_outside s (.inl (by omega))).trans (background_font _ a)
    have hprogram := peek_afterLoad_program s hl
    have hzero : ∀ a : Nat, 80 ≤ a ∧ a < 0x200 ∨ 0x200 + bytes.length ≤ a → (s.afterLoad bytes).peek a = 0 :=
      fun a ha => (peek_afterLoad_outside s (by omega)).trans (background_zero _ (by omega))
    obtain ⟨m, hm⟩ : ∃ m, s.afterLoad bytes = { State.cleared s.params s.rng with mem := m } :=
      ⟨_, s.afterLoad_eq bytes⟩
    rw [hm] at he hfont hprogram hzero
    exact ⟨_, he, rfl, rfl, rfl, rfl, rfl, rfl, rfl, rfl, rfl, rfl, rfl, rfl,
      fun x => Vector.getElem_replicate x.isLt, fun k => Vector.getElem_replicate k.isLt,
      fun k => Vector.getElem_replicate k.isLt, cell_replicate_zero, hfont, hprogram, hzero⟩
  · exact ⟨fun h => absurd hl (by omega), fun _ => he⟩

/-! ### The accesses of the host -/

theorem step_of_unloaded {s : State} (h : s.loaded = false) : step s = .refused .notLoaded := by
  simp [step, h]

/-- Before the first LOAD every other move is refused. -/
theorem perform_of_unloaded {s : State} (h : s.loaded = false) (m : HostMove) (hm : ∀ bytes, m ≠ .load bytes) :
    s.perform m = .refused .notLoaded := by
  cases m with
  | load bytes => exact absurd rfl (hm bytes)
  | cycle => exact step_of_unloaded h
  | setKey | clearRedraw | consumeBeep => exact s.access_of_unloaded h _

/-- Writing a key of a loaded core sets that key and no other. -/
theorem perform_setKey {s : State} (h : s.loaded = true) (k : Fin 16) (down : Bool) :
    ∃ t, s.perform (.setKey k down) = .next t ∧ t.key[k.val] = down ∧
      (∀ j : Fin 16, j ≠ k → t.key[j.val] = s.key[j.val]) ∧ t = { s with key := t.key } := by
  refine ⟨s.setKey k down, s.access_of_loaded h _, Vector.getElem_set_self k.isLt, fun j hj => ?_, rfl⟩
  exact Vector.getElem_set_ne k.isLt j.isLt fun he => hj (Fin.ext he.symm)

/-- The linear index x + 64*y names cell (x, y) (10_state.md R20). -/
theorem readCell_of_loaded {s : State} (h : s.loaded = true) (c : Fin 2048) (x y : Nat) (hx : x < 64)
    (hc : c.val = x + 64 * y) : s.readCell c = .next (s.fb.cell x y) := by
  have hcol : c.val % 64 = x := by omega
  have hrow : c.val / 64 = y := by omega
  rw [State.readCell, hcol, hrow]
  exact s.access_of_loaded h _

/-- Settles O3: every access goes through the check of `loaded`, which power-on clears and only LOAD sets. -/
theorem cycleBeforeLoadIsRefused : Obligations.CycleBeforeLoadIsRefused := by
  unfold Obligations.CycleBeforeLoadIsRefused
  refine ⟨fun s h => ?_, fun s h => ?_, fun _ _ => rfl, fun junk => step_of_unloaded junk.powerOn_loaded,
    fun junk n h => ?_, fun junk r h => ?_⟩
  · exact ⟨step_of_unloaded h, perform_of_unloaded h, fun c => s.access_of_unloaded h _, s.access_of_unloaded h _,
      s.access_of_unloaded h _, s.access_of_unloaded h _⟩
  · exact ⟨perform_setKey h, s.access_of_loaded h _, s.access_of_loaded h _, rfl,
      fun c x y hx _ hc => readCell_of_loaded h c x y hx hc, s.access_of_loaded h _, s.access_of_loaded h _,
      s.access_of_loaded h _⟩
  · rw [State.powerOn_rng, h, RngState.seed]
  · rw [State.powerOn_rng, h, RngState.seed]

/-- A step of a halted core answers a halted core. -/
theorem halted_of_step {s t : State} (hs : s.halted = true) (h : step s = .next t) : t.halted = true := by
  rw [step_of_halted (step_next h).1 hs] at h
  cases h
  exact hs

/-- Settles O23: a LOAD clears the halt exactly when it accepts the length, and no other move writes it. -/
theorem onlyLoadLeavesTheHalt : Obligations.OnlyLoadLeavesTheHalt := by
  unfold Obligations.OnlyLoadLeavesTheHalt
  intro m s t hs h
  have hstays : t.halted = true → (∀ bytes, m = .load bytes → 3584 < bytes.length) →
      (t.halted = false ↔ ∃ bytes : List Byte, bytes.length ≤ 3584 ∧ m = .load bytes) := fun ht hm =>
    iff_of_false (by simp [ht]) fun ⟨bytes, hl, he⟩ => absurd (hm bytes he) (by omega)
  obtain ⟨bytes, rfl, rfl⟩ | ⟨rfl, hstep⟩ | ⟨-, ⟨k, down, rfl, rfl⟩ | ⟨rfl, rfl⟩ | ⟨rfl, rfl⟩⟩ :=
    State.perform_cases s h
  · obtain ⟨hl, he⟩ | ⟨hl, he⟩ := s.load_cases bytes <;> rw [he] at hstays ⊢
    · exact iff_of_true (halted_afterLoad s) ⟨bytes, hl, rfl⟩
    · exact hstays hs fun _ hb => by cases hb; exact hl
  · exact hstays (halted_of_step hs hstep) nofun
  · exact hstays hs nofun
  · exact hstays hs nofun
  · exact hstays hs nofun

end Sys2Proof.Proofs
end

section
/-! PROOF. Control flow, the remaining ALU and index instructions, and CXNN: their effects written out
(41_control_flow.md R100 to R107; 42_alu.md R128, R130; 43_index_memory.md R141, R142; 44_random.md R160 to R162). -/

open Sys2Proof Sys2Proof.Machine

namespace Sys2Proof.Proofs

/-! ### Control flow -/

theorem sp_succ {sp : Fin 17} (h : sp.val < 16) : (⟨sp.val + 1, by omega⟩ : Fin 17) = sp + 1 :=
  Fin.ext (Fin.val_add_one_of_lt (Fin.lt_def.2 h)).symm

theorem sp_pred {sp : Fin 17} (h : 0 < sp.val) : (⟨sp.val - 1, by omega⟩ : Fin 17) = sp - 1 :=
  Fin.ext (Fin.val_sub_one_of_ne_zero (Fin.pos_iff_ne_zero.1 h)).symm

/-- Settles O31: the push has room below 16, and at 16 its fault is taken. -/
theorem callPushesTheReturnAddress : Obligations.CallPushesTheReturnAddress := by
  unfold Obligations.CallPushesTheReturnAddress
  intro nnn s
  obtain ⟨h, he⟩ | ⟨h, he⟩ := execCall_cases nnn s
  · refine ⟨fun _ => ?_, fun h16 => absurd h (by omega)⟩
    rw [← sp_succ h]
    exact he
  · exact ⟨fun hlt => absurd h (by omega), fun _ => he⟩

/-- Settles O32: the pop reads the entry below `sp`, and at 0 its fault is taken. -/
theorem returnPopsTheStoredAddress : Obligations.ReturnPopsTheStoredAddress := by
  unfold Obligations.ReturnPopsTheStoredAddress
  intro s
  obtain ⟨h, he⟩ | ⟨h, he⟩ := execRet_cases s
  · refine ⟨fun k hk => ?_, fun h0 => absurd h (by omega)⟩
    have hidx : s.sp.val - 1 = k.val := by omega
    rw [← sp_pred h]
    simp only [hidx] at he ⊢
    exact he
  · exact ⟨fun k hk => absurd h (by omega), fun _ => he⟩

/-- Settles O33: the return pops the entry that the call has just stored, and `sp` goes up and down by one. -/
theorem returnResumesAfterTheCall : Obligations.ReturnResumesAfterTheCall := by
  unfold Obligations.ReturnResumesAfterTheCall
  intro nnn s t he ht
  obtain ⟨h, hcall⟩ | ⟨-, hcall⟩ := execCall_cases nnn s <;> have heq := Host.Outcome.next.inj (he.symm.trans hcall)
  · have hsp : t.sp.val = s.sp.val + 1 := by rw [heq]
    have hdown : (⟨s.sp.val + 1, by omega⟩ : Fin 17) - 1 = s.sp := (sp_pred (Nat.succ_pos s.sp.val)).symm
    rw [(returnPopsTheStoredAddress t).1 ⟨s.sp.val, h⟩ hsp, heq]
    simp only [hdown, Vector.getElem_set_self]
  · rw [heq] at ht
    cases ht

/-- A skip whose test decides `p`. -/
theorem skipIf_eq (s : State) {c : Bool} {p : Prop} [Decidable p] (h : c = true ↔ p) :
    s.skipIf c = { s with pc := if p then s.pc + 4 else s.pc + 2 } := by
  simp [State.skipIf, State.setPc, h]

/-- 5XYn and 9XYn with a last digit other than 0 are listed as unknown (30_encoding.md R65). -/
theorem decodeWord_of_unlisted {w : Word} (h : Unlisted w) : decodeWord w = .error (.unknownOpcode w) := by
  obtain ⟨-, hn⟩ | ⟨he, -⟩ := decodeWord_accepts w
  · exact absurd h hn
  · exact he

/-- Settles O34: the words decode by the round trip or are listed as unknown, and each skip tests its condition. -/
theorem skipsFollowTheirCondition : Obligations.SkipsFollowTheirCondition := by
  unfold Obligations.SkipsFollowTheirCondition
  intro x y nn s
  refine ⟨decodeWord_encodeWord (.seImm x nn), decodeWord_encodeWord (.sneImm x nn),
    decodeWord_encodeWord (.seReg x y), decodeWord_encodeWord (.sneReg x y), fun n hn => ⟨?_, ?_⟩,
    congrArg Host.Outcome.next (skipIf_eq s beq_iff_eq), congrArg Host.Outcome.next (skipIf_eq s bne_iff_ne),
    congrArg Host.Outcome.next (skipIf_eq s beq_iff_eq), congrArg Host.Outcome.next (skipIf_eq s bne_iff_ne)⟩
  · exact decodeWord_of_unlisted (by simpa [Unlisted] using hn)
  · exact decodeWord_of_unlisted (by simpa [Unlisted] using hn)

/-- Settles O35: the sum of NNN and V0 fits 16 bits. -/
theorem indexedJumpAddsV0 : Obligations.IndexedJumpAddsV0 := by
  unfold Obligations.IndexedJumpAddsV0
  intro nnn s
  exact ⟨_, toNat_indexedTarget nnn s.v[0], rfl⟩

/-! ### Subtraction -/

theorem byte_sub_eq_ofNat (a b : Byte) : a - b = BitVec.ofNat 8 ((256 + a.toNat - b.toNat) % 256) := by
  have hb := b.isLt
  apply BitVec.eq_of_toNat_eq
  rw [BitVec.toNat_sub, BitVec.toNat_ofNat]
  omega

/-- The inverted borrow as the byte VF holds (42_alu.md R128). -/
theorem flagByte_noBorrowFlag (a b : Byte) : flagByte (noBorrowFlag a b) = if b.toNat > a.toNat then 0 else 1 := by
  by_cases h : b.toNat > a.toNat <;> simp [noBorrowFlag, flagByte, h]

section
variable (x y : RegIdx) (s : State)

theorem exec_sub {w : Regs} (hw : w = s.v.set 15 (flagByte (noBorrowFlag s.v[x.val] s.v[y.val]))) :
    exec (.sub x y) s = .next { s with v := w.set x.val (w[x.val] - w[y.val]) x.isLt, pc := s.pc + 2 } :=
  congrArg Host.Outcome.next (flagThen_advance s x hw fun v => v[x.val] - v[y.val])

theorem exec_subn {w : Regs} (hw : w = s.v.set 15 (flagByte (noBorrowFlag s.v[y.val] s.v[x.val]))) :
    exec (.subn x y) s = .next { s with v := w.set x.val (w[y.val] - w[x.val]) x.isLt, pc := s.pc + 2 } :=
  congrArg Host.Outcome.next (flagThen_advance s x hw fun v => v[y.val] - v[x.val])

end

/-- Settles O39: `w` is the register file after the inverted borrow is written, and the difference is taken from `w`. -/
theorem subtractsWriteInvertedBorrowThenDifference : Obligations.SubtractsWriteInvertedBorrowThenDifference := by
  unfold Obligations.SubtractsWriteInvertedBorrowThenDifference
  intro x y s
  refine ⟨fun w hw => ?_, fun w hw => ?_⟩
  · rw [← flagByte_noBorrowFlag] at hw
    rw [exec_sub x y s hw, byte_sub_eq_ofNat]
  · rw [← flagByte_noBorrowFlag] at hw
    rw [exec_subn x y s hw, byte_sub_eq_ofNat]

/-! ### The index register -/

theorem word_add_zextByte_eq_ofNat (i : Word) (b : Byte) :
    i + zextByte b = BitVec.ofNat 16 ((i.toNat + b.toNat) % 65536) := by
  apply BitVec.eq_of_toNat_eq
  simp [BitVec.toNat_add]

theorem toNat_glyphAddress (b : Byte) : (glyphAddress b).toNat = b.toNat * 5 := by
  have hb := b.isLt
  simp only [glyphAddress, BitVec.toNat_mul, toNat_zextByte, BitVec.reduceToNat]
  omega

/-- FX1E completes in every state: `w` is the register file after the flag write, and VX is read from it
(43_index_memory.md R141). -/
theorem exec_addIVx (x : RegIdx) (s : State) {w : Regs} (hw : w = s.v.set 15 (flagByte (rangeFlag s.i s.v[x.val]))) :
    exec (.addIVx x) s = .next { s with v := w, i := s.i + zextByte w[x.val], pc := s.pc + 2 } := by
  subst hw
  rfl

/-- Settles O42: the flag is the range test of the exact old sum, and the 16-bit sum is the sum mod 65536. -/
theorem addToIndexWritesRangeFlagThenSum : Obligations.AddToIndexWritesRangeFlagThenSum := by
  unfold Obligations.AddToIndexWritesRangeFlagThenSum
  intro x s w hw
  have hflag : w = s.v.set 15 (flagByte (rangeFlag s.i s.v[x.val])) := by
    rw [rangeFlag, flagByte_decide]
    exact hw
  rw [exec_addIVx x s hflag, word_add_zextByte_eq_ofNat]

/-- Settles O43: five times a byte fits 16 bits. -/
theorem glyphAddressIsFiveTimesVx : Obligations.GlyphAddressIsFiveTimesVx := by
  unfold Obligations.GlyphAddressIsFiveTimesVx
  intro x s
  exact ⟨_, toNat_glyphAddress s.v[x.val], congrArg Host.Outcome.next (setI_advance s _)⟩

/-! ### The random source -/

/-- CXNN completes in every state: one draw, masked, whatever NN is (44_random.md R160). -/
theorem exec_rnd (x : RegIdx) (nn : Byte) (s : State) : exec (.rnd x nn) s = .next { s with
    v := s.v.set x.val (s.rng.draw.1 &&& nn) x.isLt, rng := s.rng.draw.2, pc := s.pc + 2 } := rfl

theorem byte_and_and_not (a b : Byte) : (a &&& b) &&& ~~~b = 0 := by
  rw [BitVec.and_assoc, BitVec.and_not_self]
  exact BitVec.and_zero

/-- Settles O50: the draw is the free value or the low byte after eight generator steps, and the mask removes the rest. -/
theorem randomByteIsDrawnOnceAndMasked : Obligations.RandomByteIsDrawnOnceAndMasked := by
  unfold Obligations.RandomByteIsDrawnOnceAndMasked
  intro x nn s
  refine ⟨s.rng.draw.1, s.rng.draw.2, rfl, fun n hn => ?_, fun w hw => ?_, byte_and_and_not _ _, exec_rnd x nn s⟩
  · rw [hn, RngState.draw_free]
    exact ⟨rfl, rfl⟩
  · rw [hw, RngState.draw_reference]
    refine ⟨fun k => lfsrSteps k w, rfl, fun k _ => ?_, ?_, rfl⟩
    · exact (lfsrSteps_succ k w).trans (lfsrStep_eq _)
    · simp

end Sys2Proof.Proofs
end

section
/-! PROOF. The memory instructions FX33, FX55 and FX65: what they store and load, their round trip, the fetch after a store
and the faults out of range (43_index_memory.md R143 to R146; 20_memory.md R52; 60_exceptions.md R214). -/

open Sys2Proof Sys2Proof.Machine

namespace Sys2Proof.Proofs

/-! ### The memory that a block store leaves -/

section
variable (s : State) {a : Nat} (bytes : List Byte)

theorem read_pokeBlock (c : Nat) :
    Memory.read s.params.font (s.pokeBlock a bytes).mem c = (s.pokeBlock a bytes).peek c := by
  rw [State.peek, State.pokeBlock_params]

theorem read_pokeBlock_getElem (h : Memory.wf s.params.font s.mem) (ha : a + bytes.length ≤ 4096) (k : Nat)
    (hk : k < bytes.length) : Memory.read s.params.font (s.pokeBlock a bytes).mem (a + k) = bytes[k] :=
  (read_pokeBlock s bytes (a + k)).trans (State.peek_pokeBlock_mem s bytes h ha k hk)

theorem read_pokeBlock_outside {c : Nat} (h : c < a ∨ a + bytes.length ≤ c) :
    Memory.read s.params.font (s.pokeBlock a bytes).mem c = s.peek c :=
  (read_pokeBlock s bytes c).trans (State.peek_pokeBlock_ne s bytes h)

end

/-! ### FX33 -/

/-- Settles O44: each digit is read back from the block that was stored, and the rest is the frame of the store. -/
theorem storeDigitsWritesThreeBytes : Obligations.StoreDigitsWritesThreeBytes := by
  unfold Obligations.StoreDigitsWritesThreeBytes
  intro x s hwf hi
  obtain ⟨-, he⟩ | ⟨h, -⟩ := execLdBVx_cases x s
  · have hread := read_pokeBlock_getElem s (a := s.i.toNat) (bcdDigits s.v[x.val]) hwf
      (show s.i.toNat + 3 ≤ 4096 by omega)
    refine ⟨_, he, ?_, ?_, ?_, fun a ha => ?_, rfl⟩
    · exact (congrArg BitVec.toNat (hread 0 (show 0 < 3 by omega))).trans (by simp [bcdDigits])
    · exact (congrArg BitVec.toNat (hread 1 (show 1 < 3 by omega))).trans (by simp [bcdDigits])
    · exact (congrArg BitVec.toNat (hread 2 (show 2 < 3 by omega))).trans (by simp [bcdDigits])
    · exact read_pokeBlock_outside s _ (show a < s.i.toNat ∨ s.i.toNat + 3 ≤ a by omega)
  · exact absurd hi (by omega)

/-! ### FX55 and FX65 -/

section
variable (s : State) (x : RegIdx)

/-- The block store of FX55 read back (43_index_memory.md R144). -/
theorem read_storedRegs (hwf : Memory.wf s.params.font s.mem) (hi : s.i.toNat + x.val ≤ 0xFFF) {k : RegIdx}
    (hk : k.val ≤ x.val) :
    Memory.read s.params.font (s.pokeBlock s.i.toNat (s.regBlock x)).mem (s.i.toNat + k.val) = s.v[k.val] := by
  have hl := s.length_regBlock x
  rw [read_pokeBlock_getElem s _ hwf (by omega) k.val (by omega)]
  simp [State.regBlock]

/-- The block load of FX65 (43_index_memory.md R145). -/
theorem v_loadedRegs {k : RegIdx} (hk : k.val ≤ x.val) :
    (s.loadRegBlock (s.peekBlock s.i.toNat (x.val + 1))).v[k.val] = s.peek (s.i.toNat + k.val) := by
  have hlt : k.val < (s.peekBlock s.i.toNat (x.val + 1)).length := by
    rw [State.length_peekBlock]
    omega
  rw [v_loadRegBlock_of_lt s _ k hlt, State.getElem_peekBlock]

/-- In range `I` moves past the block without wrapping (43_index_memory.md R146). -/
theorem toNat_bumpedI (hi : s.i.toNat + x.val ≤ 0xFFF) :
    (s.i + BitVec.ofNat 16 (x.val + 1)).toNat = s.i.toNat + x.val + 1 := by
  rw [BitVec.toNat_add, BitVec.toNat_ofNat]
  omega

theorem exec_stRegs (hi : s.i.toNat + x.val ≤ 0xFFF) : exec (.stRegs x) s = .next { s with
    mem := (s.pokeBlock s.i.toNat (s.regBlock x)).mem
    i := s.i + BitVec.ofNat 16 (x.val + 1)
    pc := s.pc + 2 } := by
  obtain ⟨-, he⟩ | ⟨h, -⟩ := execStRegs_cases x s
  · exact he
  · exact absurd hi (by omega)

theorem exec_ldRegs (hi : s.i.toNat + x.val ≤ 0xFFF) : exec (.ldRegs x) s = .next { s with
    v := (s.loadRegBlock (s.peekBlock s.i.toNat (x.val + 1))).v
    i := s.i + BitVec.ofNat 16 (x.val + 1)
    pc := s.pc + 2 } := by
  obtain ⟨-, he⟩ | ⟨h, -⟩ := execLdRegs_cases x s
  · exact he
  · exact absurd hi (by omega)

end

/-- A FX55 that completes was in range and left the stored block. -/
theorem mem_of_exec_stRegs {s t : State} {x : RegIdx} (he : exec (.stRegs x) s = .next t) (ht : t.halted = false) :
    s.i.toNat + x.val ≤ 0xFFF ∧ t.mem = (s.pokeBlock s.i.toNat (s.regBlock x)).mem ∧ t.params = s.params := by
  obtain ⟨hi, hst⟩ | ⟨-, hst⟩ := execStRegs_cases x s <;> cases Host.Outcome.next.inj (he.symm.trans hst)
  · exact ⟨hi, rfl, rfl⟩
  · cases ht

/-- Settles O45: the block is read back register by register, the rest of memory is its frame, and `I` does not wrap. -/
theorem storeRegistersWritesTheBlock : Obligations.StoreRegistersWritesTheBlock := by
  unfold Obligations.StoreRegistersWritesTheBlock
  intro x s hwf hi
  have hl := s.length_regBlock x
  exact ⟨_, exec_stRegs s x hi, fun k hk => read_storedRegs s x hwf hi hk,
    fun a ha => read_pokeBlock_outside s _ (by omega), toNat_bumpedI s x hi, rfl⟩

/-- Settles O46: the registers up to VX take the bytes read, those above keep theirs, and `I` does not wrap. -/
theorem loadRegistersReadsTheBlock : Obligations.LoadRegistersReadsTheBlock := by
  unfold Obligations.LoadRegistersReadsTheBlock
  intro x s hi
  refine ⟨_, exec_ldRegs s x hi, fun k hk => v_loadedRegs s x hk, fun k hk => ?_, toNat_bumpedI s x hi, rfl⟩
  exact v_loadRegBlock_of_ge s _ k (by simpa using hk)

/-- Settles O47: FX65 reads the block at the same `I`, and it holds what FX55 stored. -/
theorem storeThenLoadRoundTripsRegisters : Obligations.StoreThenLoadRoundTripsRegisters := by
  unfold Obligations.StoreThenLoadRoundTripsRegisters
  intro x s t u hwf he ht hmem hparams hui
  obtain ⟨hi, hm, hp⟩ := mem_of_exec_stRegs he ht
  refine ⟨_, exec_ldRegs u x (by rwa [hui]), fun k hk => (v_loadedRegs u x hk).trans ?_⟩
  rw [State.peek, hmem, hm, hparams, hp, hui]
  exact read_storedRegs s x hwf hi hk

/-- Settles O49: the fetch at the old `I` is in range, since two bytes were stored there, and reads them. -/
theorem fetchSeesWhatWasStored : Obligations.FetchSeesWhatWasStored := by
  unfold Obligations.FetchSeesWhatWasStored
  intro x s t hwf hx he ht
  obtain ⟨hi, hm, hp⟩ := mem_of_exec_stRegs he ht
  have hread : ∀ k : RegIdx, k.val ≤ x.val → t.peek (s.i.toNat + k.val) = s.v[k.val] := fun k hk => by
    rw [State.peek, hm, hp]
    exact read_storedRegs s x hwf hi hk
  have hhigh : t.peek s.i.toNat = s.v[0] := hread 0 (Nat.zero_le _)
  have hlow : t.peek (s.i.toNat + 1) = s.v[1] := hread 1 hx
  rw [← hhigh, ← hlow]
  exact State.fetch_ok { t with pc := s.i } (show s.i.toNat ≤ 0xFFE by omega)

/-- Settles O48: the range check comes first in each of the four, and its fault is taken. -/
theorem blockAccessOutOfRangeFaults : Obligations.BlockAccessOutOfRangeFaults := by
  unfold Obligations.BlockAccessOutOfRangeFaults
  rintro x y n s _ rfl
  refine ⟨fun h => ?_, fun h => ⟨?_, ?_⟩, fun h0 h => ?_⟩
  · obtain ⟨hi, -⟩ | ⟨-, he⟩ := execLdBVx_cases x s
    · exact absurd h (by omega)
    · exact he
  · obtain ⟨hi, -⟩ | ⟨-, he⟩ := execStRegs_cases x s
    · exact absurd h (by omega)
    · exact he
  · obtain ⟨hi, -⟩ | ⟨-, he⟩ := execLdRegs_cases x s
    · exact absurd h (by omega)
    · exact he
  · obtain ⟨hm, -⟩ | ⟨hm, -⟩ | ⟨-, -, he⟩ := execDrw_cases x y n s
    · exact absurd h (by omega)
    · exact absurd h (by omega)
    · exact he

end Sys2Proof.Proofs
end

section
/-! PROOF. DXYN: the cells it flips, the collision, the fault off the display, and drawing twice (45_display.md R171 to
R174). -/

open Sys2Proof Sys2Proof.Machine

namespace Sys2Proof.Proofs

/-! ### The first match in an ordered list -/

/-- What `find?` finds in an ordered list comes before every other match. -/
theorem eq_or_rel_of_find? {α : Type} {r : α → α → Prop} {p : α → Bool} {l : List α} {a b : α} (hl : l.Pairwise r)
    (h : l.find? p = some a) (hb : b ∈ l) (hp : p b = true) : b = a ∨ r a b := by
  obtain ⟨-, front, back, rfl, hfront⟩ := List.find?_eq_some_iff_append.1 h
  rcases List.mem_append.1 hb with hb | hb
  · exact absurd (hfront b hb) (by simp [hp])
  · rcases List.mem_cons.1 hb with rfl | hb
    · exact .inl rfl
    · exact .inr ((List.pairwise_cons.1 (List.pairwise_append.1 hl).2.1).1 b hb)

/-! ### What a draw does to the cells -/

/-- A framebuffer is its cells. -/
theorem framebuffer_ext {f g : Framebuffer} (h : ∀ x < 64, ∀ y < 32, f.cell x y = g.cell x y) : f = g := by
  refine Vector.ext fun y hy => BitVec.eq_of_getLsbD_eq fun x hx => ?_
  have hcell := h x hx y hy
  simpa [Framebuffer.cell, hy] using hcell

/-- Flipping the same cells again restores them (45_display.md R171 (b)). -/
theorem drawTargets_twice (fb : Framebuffer) {ts : List (Nat × Nat)} (hd : ts.Nodup) :
    (drawTargets (drawTargets fb ts).1 ts).1 = fb :=
  framebuffer_ext fun x hx y hy => by
    rw [cell_drawTargets _ _ hd hx hy, cell_drawTargets _ _ hd hx hy, Bool.xor_assoc, Bool.xor_self, Bool.xor_false]

section
variable (s : State) (x y : RegIdx) (n : BitVec 4)

theorem spriteOf_nodup : (s.spriteOf x y n).Nodup := spriteTargets_nodup _ _ _

theorem spriteOf_sorted : (s.spriteOf x y n).Pairwise before := spriteTargets_sorted _ _ _

/-- A draw collides when a covered cell was lit (45_display.md R171 part 3). -/
theorem collision_spriteOf : (drawTargets s.fb (s.spriteOf x y n)).2 = true ↔
    ∃ cx cy, s.SpriteCovers x y n cx cy ∧ s.fb.cell cx cy = true := by
  rw [collision_drawTargets _ _ (spriteOf_nodup s x y n), List.any_eq_true, Prod.exists]
  simp only [mem_spriteOf]

/-- No display fault: the policy clips, or the sprite covers cells of the display only (45_display.md R173). -/
theorem displayFault_spriteOf : displayFault s.params.drawEdge (s.spriteOf x y n) = none ↔
    s.params.drawEdge = .clip ∨ ∀ cx cy, s.SpriteCovers x y n cx cy → cx ≤ 63 ∧ cy ≤ 31 := by
  simp only [displayFault_none, Prod.forall, mem_spriteOf]

variable {s x y n}

theorem exec_drw (hm : n.toNat = 0 ∨ s.i.toNat + n.toNat - 1 ≤ 0xFFF)
    (hd : displayFault s.params.drawEdge (s.spriteOf x y n) = none) :
    exec (.drw x y n) s = .next (s.drawSprite (s.spriteOf x y n)).advance := by
  obtain ⟨-, -, he⟩ | ⟨-, f, hf, -⟩ | ⟨h0, h, -⟩ := execDrw_cases x y n s
  · exact he
  · cases hd.symm.trans hf
  · exact absurd hm (by omega)

/-- A DXYN that completes passed both checks. -/
theorem drawn_of_exec_drw {t : State} (he : exec (.drw x y n) s = .next t) (ht : t.halted = false) :
    (n.toNat = 0 ∨ s.i.toNat + n.toNat - 1 ≤ 0xFFF) ∧
      displayFault s.params.drawEdge (s.spriteOf x y n) = none ∧ t = (s.drawSprite (s.spriteOf x y n)).advance := by
  obtain ⟨hm, hd, h⟩ | ⟨-, f, -, h⟩ | ⟨-, -, h⟩ := execDrw_cases x y n s <;>
    have heq := Host.Outcome.next.inj (he.symm.trans h)
  · exact ⟨hm, hd, heq⟩
  · rw [heq] at ht
    cases ht
  · rw [heq] at ht
    cases ht

end

/-- Settles O52: distinct targets flip the cells they name, and the collision is a covered cell that was lit. -/
theorem drawXorsTheSprite : Obligations.DrawXorsTheSprite := by
  unfold Obligations.DrawXorsTheSprite
  intro x y n s hn hp
  have hm : n.toNat = 0 ∨ s.i.toNat + n.toNat - 1 ≤ 0xFFF := hn.imp_left fun h => by rw [h]; rfl
  have hvf : (s.setFlag (drawTargets s.fb (s.spriteOf x y n)).2).v[15] =
      flagByte (drawTargets s.fb (s.spriteOf x y n)).2 := s.v_setFlag_vf _
  refine ⟨_, exec_drw hm ((displayFault_spriteOf s x y n).2 hp), fun cx cy hx hy => ?_, fun h => ?_, fun h => ?_, ?_⟩
  · have hcell := cell_drawTargets s.fb _ (spriteOf_nodup s x y n) (x := cx) (y := cy) (by omega) (by omega)
    rw [← mem_spriteOf]
    exact ⟨fun h => by simpa [h] using hcell, fun h => by simpa [h] using hcell⟩
  · exact hvf.trans (by rw [(collision_spriteOf s x y n).2 h]; rfl)
  · rw [← collision_spriteOf, Bool.not_eq_true] at h
    exact hvf.trans (by rw [h]; rfl)
  · show _ = { s with
      fb := (drawTargets s.fb (s.spriteOf x y n)).1
      v := s.v.set 15 (s.setFlag (drawTargets s.fb (s.spriteOf x y n)).2).v[15]
      redraw := true
      pc := s.pc + 2 }
    rw [hvf]
    rfl

/-- Settles O53: the targets come in row-then-column order, so the one the fault names is the first off the display. -/
theorem drawOffTheDisplayFaultsUnderFaultPolicy : Obligations.DrawOffTheDisplayFaultsUnderFaultPolicy := by
  unfold Obligations.DrawOffTheDisplayFaultsUnderFaultPolicy
  intro x y n s hp hm hoff
  obtain ⟨-, hd, -⟩ | ⟨-, f, hf, he⟩ | ⟨-, h, -⟩ := execDrw_cases x y n s
  · obtain ⟨cx, cy, hc, ho⟩ := hoff
    obtain hclip | hin := (displayFault_spriteOf s x y n).1 hd
    · cases hp.symm.trans hclip
    · exact absurd (hin cx cy hc) (by omega)
  · obtain ⟨-, ⟨px, py⟩, hfind, rfl⟩ := displayFault_eq_some.1 hf
    refine ⟨px, py, (mem_spriteOf s x y n px py).1 (List.mem_of_find?_eq_some hfind),
      offDisplay_iff.1 (List.find?_some hfind), fun cx cy hc ho => ?_, he⟩
    obtain heq | hlt | ⟨hrow, hcol⟩ := eq_or_rel_of_find? (spriteOf_sorted s x y n) hfind
      ((mem_spriteOf s x y n cx cy).2 hc) (offDisplay_iff.2 ho)
    · cases heq
      exact .inr ⟨rfl, le_rfl⟩
    · exact .inl hlt
    · exact .inr ⟨hrow, hcol.le⟩
  · exact absurd hm (by omega)

/-- With its coordinates not in VF, the second draw has the sprite of the first: memory, `I`, VX and VY are as before. -/
theorem spriteOf_drawn {s : State} {x y : RegIdx} (n : BitVec 4) (hx : x ≠ 15) (hy : y ≠ 15) (ts : List (Nat × Nat)) :
    (s.drawSprite ts).advance.spriteOf x y n = s.spriteOf x y n := by
  have hreg : ∀ r : RegIdx, r ≠ 15 → (s.drawSprite ts).advance.readV r = s.readV r := fun r hr =>
    s.v_setFlag_ne hr _
  rw [State.spriteOf, State.spriteOf, State.drawTargetsOf, State.drawTargetsOf, hreg x hx, hreg y hy]
  rfl

/-- Settles O54: the second draw has the same targets, so it passes the same checks and flips the same cells back. -/
theorem drawingTwiceRestoresTheDisplay : Obligations.DrawingTwiceRestoresTheDisplay := by
  unfold Obligations.DrawingTwiceRestoresTheDisplay
  intro x y n s t hx hy he ht
  obtain ⟨hm, hd, rfl⟩ := drawn_of_exec_drw he ht
  have hts := spriteOf_drawn (s := s) n hx hy (s.spriteOf x y n)
  refine ⟨_, exec_drw hm (by rw [hts]; exact hd), ht, ?_⟩
  rw [hts]
  exact drawTargets_twice s.fb (spriteOf_nodup s x y n)

end Sys2Proof.Proofs
end

section
/-! PROOF. The keypad and the timers: the key skips, the wait for a key and the timer writes (46_keypad_timers.md R190 to
R196). -/

open Sys2Proof Sys2Proof.Machine

namespace Sys2Proof.Proofs

/-! ### Keys -/

/-- The key picked is the lowest or the highest one down, as `KEY_PICK` says (46_keypad_timers.md R192). -/
theorem pickKey_extremal {s : State} {k j : Fin 16} (h : s.pickKey = some k) (hj : s.key[j.val] = true) :
    (s.params.keyPick = .lowest → k ≤ j) ∧ (s.params.keyPick = .highest → j ≤ k) := by
  unfold State.pickKey at h
  cases hp : s.params.keyPick <;> rw [hp] at h
  · have hfirst := eq_or_rel_of_find? (List.pairwise_lt_finRange 16) h (List.mem_finRange j) hj
    exact ⟨fun _ => hfirst.elim (fun he => he.ge) le_of_lt, nofun⟩
  · have hfirst := eq_or_rel_of_find? (List.pairwise_reverse.2 (List.pairwise_lt_finRange 16)) h
      (List.mem_reverse.2 (List.mem_finRange j)) hj
    exact ⟨nofun, fun _ => hfirst.elim (fun he => he.le) le_of_lt⟩

/-- Settles O56: with no key down none is picked; otherwise the picked key and the given one are both the extremal key
that is down. -/
theorem waitForKeyStallsOrTakesAKey : Obligations.WaitForKeyStallsOrTakesAKey := by
  unfold Obligations.WaitForKeyStallsOrTakesAKey
  intro x s
  obtain ⟨j, hj, he⟩ | ⟨hnone, he⟩ := execLdVxK_cases x s
  · have hjdown := s.pickKey_down hj
    refine ⟨fun hup => ?_, fun k hk hext => ?_⟩
    · cases (hup j).symm.trans hjdown
    · obtain ⟨hlow, hhigh⟩ := hext j hjdown
      obtain ⟨hlow', hhigh'⟩ := pickKey_extremal hj hk
      have hjk : j = k := by
        cases hp : s.params.keyPick with
        | lowest => exact le_antisymm (hlow' hp) (hlow hp)
        | highest => exact le_antisymm (hhigh hp) (hhigh' hp)
      rw [← hjk]
      exact he
  · refine ⟨fun _ => he, fun k hk _ => ?_⟩
    have hsome := s.pickKey_isSome.2 ⟨k, hk⟩
    rw [hnone] at hsome
    cases hsome

/-- Settles O55: the key tested is the one that VX mod 16 names. -/
theorem keySkipsFollowTheKey : Obligations.KeySkipsFollowTheKey := by
  unfold Obligations.KeySkipsFollowTheKey
  intro x k s hk
  have hidx : keyIndex s.v[x.val] = k := Fin.ext ((keyIndex_val _).trans hk.symm)
  have hdown : s.keyDown x = s.key[k.val] :=
    congrArg (fun j : Fin 16 => s.key[j.val]) hidx
  constructor
  · exact congrArg Host.Outcome.next (skipIf_eq s (by rw [hdown]))
  · exact congrArg Host.Outcome.next (skipIf_eq s (by rw [hdown, Bool.not_eq_true']))

/-! ### Timers -/

theorem exec_ldDtVx (x : RegIdx) (s : State) :
    exec (.ldDtVx x) s = .next { s with dt := s.v[x.val], pc := s.pc + 2 } := rfl

theorem exec_ldStVx (x : RegIdx) (s : State) :
    exec (.ldStVx x) s = .next { s with st := s.v[x.val], pc := s.pc + 2 } := rfl

/-- Settles O58: the post-step of the same CYCLE counts the timer that was set, and finds ST at 1 when VX was 1. -/
theorem setTimersThenCountInTheSameCycle : Obligations.SetTimersThenCountInTheSameCycle := by
  unfold Obligations.SetTimersThenCountInTheSameCycle
  intro x s
  refine ⟨exec_ldDtVx x s, exec_ldStVx x s, fun h => ?_, fun h => ?_⟩
  · have hstep := step_eq_postStep h (decodeWord_encodeWord _) (exec_ldDtVx x s) h.running.notHalted
    exact ⟨_, hstep, countDown_toNat s.v[x.val]⟩
  · have hstep := step_eq_postStep h (decodeWord_encodeWord _) (exec_ldStVx x s) h.running.notHalted
    exact ⟨_, hstep, countDown_toNat s.v[x.val], by simp⟩

end Sys2Proof.Proofs
end
